-- ==== Sys2Proof/Word.lean ====
section
/-! DEFINITION. The word types of the cchip8 CHIP-8 core (spec/00_scope.md R4, R5: every value is unsigned). -/

namespace Sys2Proof

/-- A byte: a general register, a timer, a cell of `mem` (R4 `REG_WIDTH`, `TIMER_WIDTH`). -/
abbrev Byte := BitVec 8

/-- A 16-bit value: `I`, `PC`, a stack entry, an opcode (R4 `INDEX_WIDTH`, `PC_WIDTH`). -/
abbrev Word := BitVec 16

/-- The 12-bit address field `NNN` (R61, R63). -/
abbrev Addr12 := BitVec 12

/-- A register number: all sixteen values of a 4-bit field name a register (R24, R63). -/
abbrev RegIdx := Fin 16

/-- Register 15, `VF`: an ordinary register and the machine's only flag (R25). -/
def vf : RegIdx := 15

end Sys2Proof
end

