-- ==== Sys2Proof/Config.lean ====
section
/-! DEFINITION. The parameters of spec/00_scope.md R4: the fixed ones as constants, the OPEN ones as the record `Params`
that a state carries, and the free value that stands for the host's inputs. -/

namespace Sys2Proof

/-- `MEM_SIZE` (R4). -/
abbrev memSize : Nat := 4096
/-- `PROGRAM_BASE`, also the entry point (R4, R172). -/
abbrev programBase : Nat := 0x200
/-- `MAX_PROGRAM_BYTES` = 4096 − 0x200 (R4, R174). -/
abbrev maxProgramBytes : Nat := 3584
/-- `GLYPH_BASE` (R4, R23). -/
abbrev glyphBase : Nat := 0x50
/-- `GLYPH_BYTES` (R4). -/
abbrev glyphBytes : Nat := 80
/-- `GLYPH_CHAR_SIZE` (R4, D9). -/
abbrev glyphCharSize : Nat := 5
/-- `GLYPH_COUNT` (R4). -/
abbrev glyphCount : Nat := 16
/-- `DISPLAY_WIDTH` (R4). -/
abbrev displayWidth : Nat := 64
/-- `DISPLAY_HEIGHT` (R4). -/
abbrev displayHeight : Nat := 32
/-- `NUM_KEYS` (R4). -/
abbrev numKeys : Nat := 16
/-- `WRITE_BASE`, the lowest address a program store may write (R4, R48, D6). -/
abbrev writeBase : Nat := 0x200

/-- `GLYPH_ROM`: sixteen glyphs of five rows, top row first (R23). -/
abbrev GlyphRom := Vector (Vector Byte 5) 16

/-- The three OPEN parameters of spec/92_eei_decisions.md. No instruction reads one into a register and no step writes one
(R11: fixed for the life of the machine). DESIGN CHOICE (notes/assumptions/1.md): a state carries them, so that a statement
about every state holds for every setting. -/
structure Params where
  /-- `STACK_DEPTH`: `some d` entries, or `none` for an unbounded stack (R28, D8). -/
  stackDepth : Option Nat
  /-- `GLYPH_ROM` (R23, D9). -/
  glyphRom : GlyphRom
  /-- `ALIAS_5_9`: whether `5XYN`, `9XYN` with `N ≠ 0` execute as `5XY0`, `9XY0` (R67, D12). -/
  alias59 : Bool
  deriving DecidableEq, Repr

/-- What the host presents to one `Step` (R10, R33, R34): the sixteen key flags and the random byte. -/
structure Input where
  /-- `key[0..15]`; `true` is pressed (R33). -/
  key : Vector Bool 16
  /-- `rnd` (R34). -/
  rnd : Byte
  deriving DecidableEq, Repr, Inhabited

/-- The sample of a `Step` for which the state lists none, by the number of the `Step`: a free value with no body, since
`key` and `rnd` are under no law (R33, R34, D11, D20; notes/assumptions/2.md). -/
opaque Config.freeInput : Nat → Input

end Sys2Proof
end

