-- ==== Sys2Proof/Syntax.lean ====
section
/-! DEFINITION. The instructions: one constructor per row of spec/opcode_table.json (spec/30_encoding.md R64). -/

namespace Sys2Proof

/-- The 34 instructions. Fields carry the operands of R61 and R63 at their own widths. The one operand whose type admits
more than its 4-bit field does is the sprite row count of `drw`, a plain count; `Instr.wellFormed` bounds it. -/
inductive Instr where
  /-- 00E0 `CLS` (R130). -/
  | cls
  /-- 00EE `RET` (R90). -/
  | ret
  /-- 1NNN `JP nnn` (R91). -/
  | jp (nnn : Addr12)
  /-- 2NNN `CALL nnn` (R92). -/
  | call (nnn : Addr12)
  /-- 3XNN `SE Vx, nn` (R94). -/
  | seImm (x : RegIdx) (nn : Byte)
  /-- 4XNN `SNE Vx, nn` (R95). -/
  | sneImm (x : RegIdx) (nn : Byte)
  /-- 5XY0 `SE Vx, Vy` (R96). -/
  | seReg (x y : RegIdx)
  /-- 6XNN `LD Vx, nn` (R101). -/
  | ldImm (x : RegIdx) (nn : Byte)
  /-- 7XNN `ADD Vx, nn` (R102). -/
  | addImm (x : RegIdx) (nn : Byte)
  /-- 8XY0 `LD Vx, Vy` (R103). -/
  | ldReg (x y : RegIdx)
  /-- 8XY1 `OR Vx, Vy` (R104). -/
  | orReg (x y : RegIdx)
  /-- 8XY2 `AND Vx, Vy` (R105). -/
  | andReg (x y : RegIdx)
  /-- 8XY3 `XOR Vx, Vy` (R106). -/
  | xorReg (x y : RegIdx)
  /-- 8XY4 `ADD Vx, Vy` (R107). -/
  | addReg (x y : RegIdx)
  /-- 8XY5 `SUB Vx, Vy` (R108). -/
  | subReg (x y : RegIdx)
  /-- 8XY6 `SHR Vx` (R109); `y` is encoded and ignored (R68). -/
  | shr (x y : RegIdx)
  /-- 8XY7 `SUBN Vx, Vy` (R110). -/
  | subnReg (x y : RegIdx)
  /-- 8XYE `SHL Vx` (R111); `y` is encoded and ignored (R68). -/
  | shl (x y : RegIdx)
  /-- 9XY0 `SNE Vx, Vy` (R97). -/
  | sneReg (x y : RegIdx)
  /-- ANNN `LD I, nnn` (R120). -/
  | ldI (nnn : Addr12)
  /-- BNNN `JP V0, nnn` (R93). -/
  | jpV0 (nnn : Addr12)
  /-- CXNN `RND Vx, nn` (R115). -/
  | rnd (x : RegIdx) (nn : Byte)
  /-- DXYN `DRW Vx, Vy, n` (R131); `n` is the number of sprite rows. -/
  | drw (x y : RegIdx) (n : Nat)
  /-- EX9E `SKP Vx` (R140). -/
  | skp (x : RegIdx)
  /-- EXA1 `SKNP Vx` (R141). -/
  | sknp (x : RegIdx)
  /-- FX07 `LD Vx, DT` (R143). -/
  | ldVxDt (x : RegIdx)
  /-- FX0A `LD Vx, K` (R142); `x` is encoded, no register is read or written. -/
  | ldVxK (x : RegIdx)
  /-- FX15 `LD DT, Vx` (R144). -/
  | ldDtVx (x : RegIdx)
  /-- FX18 `LD ST, Vx` (R145). -/
  | ldStVx (x : RegIdx)
  /-- FX1E `ADD I, Vx` (R121). -/
  | addI (x : RegIdx)
  /-- FX29 `LD F, Vx` (R122). -/
  | ldF (x : RegIdx)
  /-- FX33 `LD B, Vx` (R123). -/
  | ldB (x : RegIdx)
  /-- FX55 `LD [I], Vx` (R125). -/
  | ldMemVx (x : RegIdx)
  /-- FX65 `LD Vx, [I]` (R126). -/
  | ldVxMem (x : RegIdx)
  deriving DecidableEq, Repr

end Sys2Proof
end

