-- ==== Sys2Proof/WellFormed.lean ====
section
/-! DEFINITION. Which terms of `Instr` an opcode can carry: the checks that the operand types do not already make. -/

namespace Sys2Proof

/-- `N` is a 4-bit count, 0 to 15 (spec/30_encoding.md R63). -/
def rowCountFits (n : Nat) : Bool := decide (n ≤ 15)

/-- Every operand lies in the range of its field (R61, R63). Register numbers (`Fin 16`), `NN` (8 bits) and `NNN`
(12 bits) are held by their types; the row count of DXYN is checked. -/
def Instr.wellFormed : Instr → Bool
  | .cls | .ret => true
  | .jp _ | .call _ | .ldI _ | .jpV0 _ => true
  | .seImm _ _ | .sneImm _ _ | .ldImm _ _ | .addImm _ _ | .rnd _ _ => true
  | .seReg _ _ | .sneReg _ _ | .ldReg _ _ | .orReg _ _ | .andReg _ _ | .xorReg _ _ => true
  | .addReg _ _ | .subReg _ _ | .shr _ _ | .subnReg _ _ | .shl _ _ => true
  | .drw _ _ n => rowCountFits n
  | .skp _ | .sknp _ | .ldVxDt _ | .ldVxK _ | .ldDtVx _ | .ldStVx _ | .addI _ | .ldF _ | .ldB _ => true
  | .ldMemVx _ | .ldVxMem _ => true

end Sys2Proof
end

