-- ==== Sys2Proof/Decode.lean ====
section
/-! DEFINITION. Decoding and encoding (spec/30_encoding.md): the fields of an opcode, the dispatch of R65, R84 and R88, a
decoder total on any bytes, then the encoder of R62's formats, and the opcode table of R64 as data. -/

namespace Sys2Proof

/-- Why the decoder gives no instruction. -/
inductive Reject where
  /-- The opcode matches none of the 34 rows (R66). It is no fault: `Step` runs it as the silent no-op of R87. -/
  | undefinedOpcode (op : Word)
  /-- Fewer than the two bytes of an instruction were given (R60). -/
  | truncated
  deriving DecidableEq, Repr

/-- `F = op[15:12]` (R61). -/
def fieldF (op : Word) : BitVec 4 := op.extractLsb' 12 4
/-- `X = op[11:8]` (R61). -/
def fieldX (op : Word) : RegIdx := (op.extractLsb' 8 4).toFin
/-- `Y = op[7:4]` (R61). -/
def fieldY (op : Word) : RegIdx := (op.extractLsb' 4 4).toFin
/-- `N = op[3:0]` (R61). -/
def fieldN (op : Word) : BitVec 4 := op.extractLsb' 0 4
/-- `NN = op[7:0]` (R61). -/
def fieldNN (op : Word) : Byte := op.extractLsb' 0 8
/-- `NNN = op[11:0]` (R61). -/
def fieldNNN (op : Word) : Addr12 := op.extractLsb' 0 12

/-- Family 0x0: the whole of `NNN` selects (R65, R88). -/
def decodeFamily0 (op : Word) : Except Reject Instr :=
  if fieldNNN op = 0x0E0 then .ok .cls
  else if fieldNNN op = 0x0EE then .ok .ret
  else .error (.undefinedOpcode op)

/-- Families 0x5 and 0x9: `N` must be 0, unless `ALIAS_5_9` is set (R67, D12). -/
def decodeRegSkip (alias59 : Bool) (i : Instr) (op : Word) : Except Reject Instr :=
  if fieldN op = 0 || alias59 then .ok i else .error (.undefinedOpcode op)

/-- Family 0x8: `N` selects; an unmatched `N` is undefined and falls into no other family (R65). -/
def decodeFamily8 (op : Word) : Except Reject Instr :=
  let x := fieldX op
  let y := fieldY op
  match fieldN op with
  | 0x0#4 => .ok (.ldReg x y)
  | 0x1#4 => .ok (.orReg x y)
  | 0x2#4 => .ok (.andReg x y)
  | 0x3#4 => .ok (.xorReg x y)
  | 0x4#4 => .ok (.addReg x y)
  | 0x5#4 => .ok (.subReg x y)
  | 0x6#4 => .ok (.shr x y)
  | 0x7#4 => .ok (.subnReg x y)
  | 0xE#4 => .ok (.shl x y)
  | _ => .error (.undefinedOpcode op)

/-- Family 0xE: the whole of `NN` selects (R65). -/
def decodeFamilyE (op : Word) : Except Reject Instr :=
  if fieldNN op = 0x9E then .ok (.skp (fieldX op))
  else if fieldNN op = 0xA1 then .ok (.sknp (fieldX op))
  else .error (.undefinedOpcode op)

/-- Family 0xF: the whole of `NN` selects (R65). -/
def decodeFamilyF (op : Word) : Except Reject Instr :=
  let x := fieldX op
  match fieldNN op with
  | 0x07#8 => .ok (.ldVxDt x)
  | 0x0A#8 => .ok (.ldVxK x)
  | 0x15#8 => .ok (.ldDtVx x)
  | 0x18#8 => .ok (.ldStVx x)
  | 0x1E#8 => .ok (.addI x)
  | 0x29#8 => .ok (.ldF x)
  | 0x33#8 => .ok (.ldB x)
  | 0x55#8 => .ok (.ldMemVx x)
  | 0x65#8 => .ok (.ldVxMem x)
  | _ => .error (.undefinedOpcode op)

/-- The 16-way dispatch on `F` (R65, R84, R88). The last arm stands for the values `F` does not have. -/
def decodeWord (alias59 : Bool) (op : Word) : Except Reject Instr :=
  match fieldF op with
  | 0x0#4 => decodeFamily0 op
  | 0x1#4 => .ok (.jp (fieldNNN op))
  | 0x2#4 => .ok (.call (fieldNNN op))
  | 0x3#4 => .ok (.seImm (fieldX op) (fieldNN op))
  | 0x4#4 => .ok (.sneImm (fieldX op) (fieldNN op))
  | 0x5#4 => decodeRegSkip alias59 (.seReg (fieldX op) (fieldY op)) op
  | 0x6#4 => .ok (.ldImm (fieldX op) (fieldNN op))
  | 0x7#4 => .ok (.addImm (fieldX op) (fieldNN op))
  | 0x8#4 => decodeFamily8 op
  | 0x9#4 => decodeRegSkip alias59 (.sneReg (fieldX op) (fieldY op)) op
  | 0xA#4 => .ok (.ldI (fieldNNN op))
  | 0xB#4 => .ok (.jpV0 (fieldNNN op))
  | 0xC#4 => .ok (.rnd (fieldX op) (fieldNN op))
  | 0xD#4 => .ok (.drw (fieldX op) (fieldY op) (fieldN op).toNat)
  | 0xE#4 => decodeFamilyE op
  | 0xF#4 => decodeFamilyF op
  | _ => .error (.undefinedOpcode op)

/-- The opcode of two bytes: the byte at the lower address is `op[15:8]` (spec/20_memory.md R44). -/
def wordOfBytes (b0 b1 : Byte) : Word := b0 ++ b1

/-- Decoding a byte string: the first instruction and the rest. Total; a rejection has a name. -/
def decode (alias59 : Bool) : List Byte → Except Reject (Instr × List Byte)
  | b0 :: b1 :: rest =>
    match decodeWord alias59 (wordOfBytes b0 b1) with
    | .ok i => .ok (i, rest)
    | .error r => .error r
  | [] | [_] => .error .truncated

/-- The table's number of an instruction, with the default `ALIAS_5_9`, through the bytes as the hardware stores them. -/
def decodeTableWord (nbits w : Nat) : Option Instr :=
  let op := BitVec.ofNat 16 (w % 2 ^ nbits)
  match decode Machine.defaultParams.alias59 [op.extractLsb' 8 8, op.extractLsb' 0 8] with
  | .ok (i, _) => some i
  | .error _ => none

/-! The encoder: the formats of R62, bit 15 at the left. -/

/-- Format `NNN` (R62). -/
def formatNNN (f : BitVec 4) (nnn : Addr12) : Word := f ++ nnn
/-- Format `XNN` (R62). -/
def formatXNN (f : BitVec 4) (x : RegIdx) (nn : Byte) : Word := f ++ (BitVec.ofFin x : BitVec 4) ++ nn
/-- Formats `XY` and `XYN` (R62): the last nibble is a selector or `N`. -/
def formatXYN (f : BitVec 4) (x y : RegIdx) (n : BitVec 4) : Word :=
  f ++ (BitVec.ofFin x : BitVec 4) ++ (BitVec.ofFin y : BitVec 4) ++ n

/-- The opcode of an instruction (R64's patterns laid out in R62's formats). -/
def encode : Instr → Word
  | .cls => 0x00E0
  | .ret => 0x00EE
  | .jp nnn => formatNNN 0x1 nnn
  | .call nnn => formatNNN 0x2 nnn
  | .seImm x nn => formatXNN 0x3 x nn
  | .sneImm x nn => formatXNN 0x4 x nn
  | .seReg x y => formatXYN 0x5 x y 0x0
  | .ldImm x nn => formatXNN 0x6 x nn
  | .addImm x nn => formatXNN 0x7 x nn
  | .ldReg x y => formatXYN 0x8 x y 0x0
  | .orReg x y => formatXYN 0x8 x y 0x1
  | .andReg x y => formatXYN 0x8 x y 0x2
  | .xorReg x y => formatXYN 0x8 x y 0x3
  | .addReg x y => formatXYN 0x8 x y 0x4
  | .subReg x y => formatXYN 0x8 x y 0x5
  | .shr x y => formatXYN 0x8 x y 0x6
  | .subnReg x y => formatXYN 0x8 x y 0x7
  | .shl x y => formatXYN 0x8 x y 0xE
  | .sneReg x y => formatXYN 0x9 x y 0x0
  | .ldI nnn => formatNNN 0xA nnn
  | .jpV0 nnn => formatNNN 0xB nnn
  | .rnd x nn => formatXNN 0xC x nn
  | .drw x y n => formatXYN 0xD x y (BitVec.ofNat 4 n)
  | .skp x => formatXNN 0xE x 0x9E
  | .sknp x => formatXNN 0xE x 0xA1
  | .ldVxDt x => formatXNN 0xF x 0x07
  | .ldVxK x => formatXNN 0xF x 0x0A
  | .ldDtVx x => formatXNN 0xF x 0x15
  | .ldStVx x => formatXNN 0xF x 0x18
  | .addI x => formatXNN 0xF x 0x1E
  | .ldF x => formatXNN 0xF x 0x29
  | .ldB x => formatXNN 0xF x 0x33
  | .ldMemVx x => formatXNN 0xF x 0x55
  | .ldVxMem x => formatXNN 0xF x 0x65

/-- An opcode as the two bytes stored at ascending addresses (R44). -/
def bytesOfWord (op : Word) : List Byte := [op.extractLsb' 8 8, op.extractLsb' 0 8]

/-- A row of the opcode table: an opcode matches it when `op & mask = pattern` (R64). -/
structure Row where
  mask : Word
  pattern : Word
  deriving DecidableEq, Repr

/-- The row of R64 that an instruction belongs to, with the default `ALIAS_5_9`. -/
def rowOf : Instr → Row
  | .cls => ⟨0xFFFF, 0x00E0⟩
  | .ret => ⟨0xFFFF, 0x00EE⟩
  | .jp _ => ⟨0xF000, 0x1000⟩
  | .call _ => ⟨0xF000, 0x2000⟩
  | .seImm _ _ => ⟨0xF000, 0x3000⟩
  | .sneImm _ _ => ⟨0xF000, 0x4000⟩
  | .seReg _ _ => ⟨0xF00F, 0x5000⟩
  | .ldImm _ _ => ⟨0xF000, 0x6000⟩
  | .addImm _ _ => ⟨0xF000, 0x7000⟩
  | .ldReg _ _ => ⟨0xF00F, 0x8000⟩
  | .orReg _ _ => ⟨0xF00F, 0x8001⟩
  | .andReg _ _ => ⟨0xF00F, 0x8002⟩
  | .xorReg _ _ => ⟨0xF00F, 0x8003⟩
  | .addReg _ _ => ⟨0xF00F, 0x8004⟩
  | .subReg _ _ => ⟨0xF00F, 0x8005⟩
  | .shr _ _ => ⟨0xF00F, 0x8006⟩
  | .subnReg _ _ => ⟨0xF00F, 0x8007⟩
  | .shl _ _ => ⟨0xF00F, 0x800E⟩
  | .sneReg _ _ => ⟨0xF00F, 0x9000⟩
  | .ldI _ => ⟨0xF000, 0xA000⟩
  | .jpV0 _ => ⟨0xF000, 0xB000⟩
  | .rnd _ _ => ⟨0xF000, 0xC000⟩
  | .drw _ _ _ => ⟨0xF000, 0xD000⟩
  | .skp _ => ⟨0xF0FF, 0xE09E⟩
  | .sknp _ => ⟨0xF0FF, 0xE0A1⟩
  | .ldVxDt _ => ⟨0xF0FF, 0xF007⟩
  | .ldVxK _ => ⟨0xF0FF, 0xF00A⟩
  | .ldDtVx _ => ⟨0xF0FF, 0xF015⟩
  | .ldStVx _ => ⟨0xF0FF, 0xF018⟩
  | .addI _ => ⟨0xF0FF, 0xF01E⟩
  | .ldF _ => ⟨0xF0FF, 0xF029⟩
  | .ldB _ => ⟨0xF0FF, 0xF033⟩
  | .ldMemVx _ => ⟨0xF0FF, 0xF055⟩
  | .ldVxMem _ => ⟨0xF0FF, 0xF065⟩

/-- The 34 rows in R64's order. -/
def opcodeTable : List Row :=
  [⟨0xFFFF, 0x00E0⟩, ⟨0xFFFF, 0x00EE⟩, ⟨0xF000, 0x1000⟩, ⟨0xF000, 0x2000⟩, ⟨0xF000, 0x3000⟩, ⟨0xF000, 0x4000⟩,
   ⟨0xF00F, 0x5000⟩, ⟨0xF000, 0x6000⟩, ⟨0xF000, 0x7000⟩] ++
  [⟨0xF00F, 0x8000⟩, ⟨0xF00F, 0x8001⟩, ⟨0xF00F, 0x8002⟩, ⟨0xF00F, 0x8003⟩, ⟨0xF00F, 0x8004⟩, ⟨0xF00F, 0x8005⟩,
   ⟨0xF00F, 0x8006⟩, ⟨0xF00F, 0x8007⟩, ⟨0xF00F, 0x800E⟩, ⟨0xF00F, 0x9000⟩] ++
  [⟨0xF000, 0xA000⟩, ⟨0xF000, 0xB000⟩, ⟨0xF000, 0xC000⟩, ⟨0xF000, 0xD000⟩, ⟨0xF0FF, 0xE09E⟩, ⟨0xF0FF, 0xE0A1⟩] ++
  [⟨0xF0FF, 0xF007⟩, ⟨0xF0FF, 0xF00A⟩, ⟨0xF0FF, 0xF015⟩, ⟨0xF0FF, 0xF018⟩, ⟨0xF0FF, 0xF01E⟩, ⟨0xF0FF, 0xF029⟩,
   ⟨0xF0FF, 0xF033⟩, ⟨0xF0FF, 0xF055⟩, ⟨0xF0FF, 0xF065⟩]

end Sys2Proof
end

