-- ==== Sys2Proof/Machine/State.lean ====
section
/-! DEFINITION. The state of the core (spec/10_state.md R20 to R37) and its value after reset (R35, R170). -/

namespace Sys2Proof.Machine

/-- The fault causes of spec/60_exceptions.md R151. `none` is R151's code 0, no fault. A claim names the condition, not
the number (D4). -/
inductive Cause where
  | none
  | fetchRange
  | stackUnderflow
  | stackOverflow
  | readRange
  | writeRange
  | writeProtect
  | keyIndex
  deriving DecidableEq, Repr

/-- The fault record (R32): `fault` and the four fields that a faulting `Step` writes beside it. -/
structure FaultRecord where
  /-- The latch: `true` is halted. -/
  fault : Bool
  /-- The cause; `Cause.code` gives R151's 4-bit code. -/
  fcause : Cause
  /-- The `PC` the faulting `Step` started with. -/
  fpc : Word
  /-- The fetched opcode, 0x0000 for a fetch fault. -/
  fop : Word
  /-- The offending address or key index. -/
  finfo : BitVec 17
  deriving DecidableEq, Repr

/-- The record of a core that has not faulted: every field 0 (R32, R35). -/
def FaultRecord.clear : FaultRecord :=
  { fault := false, fcause := .none, fpc := 0, fop := 0, finfo := 0 }

/-- `mem` as the cells that differ from what an unlisted address reads as, addresses strictly rising
(`Memory.wf`, notes/assumptions/3.md). -/
abbrev Memory := List Host.Cell

/-- `disp` as 32 rows, top row first, of 64 cells, column 0 first; `true` is on (R29, D15). -/
abbrev Grid := Vector (Vector Bool 64) 32

/-- All cells off. -/
def Grid.blank : Grid := Vector.replicate 32 (Vector.replicate 64 false)

/-- The state of the core (R20), and after it the model's own three fields: the parameters (R11) and the inputs (R10). -/
structure State where
  /-- `V[0..15]` (R24). -/
  v : Vector Byte 16
  /-- `I` (R26). -/
  i : Word
  /-- `PC` (R27): during an instruction body, the address of the instruction plus 2. -/
  pc : Word
  /-- The live entries of the call stack, most recent first; `SP` is its length (R28). -/
  stack : List Word
  /-- `mem` (R21). -/
  mem : Memory
  /-- `disp` (R29). -/
  disp : Grid
  /-- `DT` (R30). -/
  dt : Byte
  /-- `ST` (R31). -/
  st : Byte
  /-- `fault`, `fcause`, `fpc`, `fop`, `finfo` (R32). -/
  faultRec : FaultRecord
  /-- The OPEN parameters (R4, R11), which no step writes. -/
  params : Params
  /-- The samples the host presents to the coming `Step`s, the next one first (R33, R34, R161). -/
  inputs : List Input
  /-- How many `Step`s have completed: the argument of the free input of a `Step` for which `inputs` lists none. -/
  stepNo : Nat
  deriving DecidableEq, Repr

/-- `SP`, the stack depth counter (R28). -/
def State.sp (s : State) : Nat := s.stack.length

/-- `fault = 1` (R32). -/
def State.halted (s : State) : Bool := s.faultRec.fault

/-- The `key` and `rnd` of this `Step` (R33, R34): the sample the host has listed, else a free value. -/
def State.input (s : State) : Input :=
  match s.inputs with
  | x :: _ => x
  | [] => Config.freeInput s.stepNo

/-- The machine right after reset (R35, R170), before the program image is loaded (R174). `PC` is the document's; every
zero is the spec's decision D2. Nothing is listed in `mem`, so every address reads its reset contents. -/
def State.reset : State :=
  { v := Vector.replicate 16 0
    i := 0
    pc := 0x0200
    stack := []
    mem := []
    disp := Grid.blank
    dt := 0
    st := 0
    faultRec := FaultRecord.clear
    params := defaultParams
    inputs := []
    stepNo := 0 }

/-- Reasons for which the machine would stop outside the spec. There is none and nothing raises one: every fault of the
spec is a next state with the fault record latched (R153; notes/assumptions/4.md). Safe, since nothing is cut short. -/
inductive Fault
  deriving DecidableEq, Repr

/-- Reasons for which the model would give an instruction no meaning. -/
inductive Refusal where
  /-- Raised by an arm of `exec` for an instruction the model does not cover yet; no arm raises it. Safe: it stops where
  the hardware goes on. -/
  | notModelled (mnemonic : String)
  deriving DecidableEq, Repr

/-- What a meaning answers. -/
abbrev Result := Host.Outcome State Fault Refusal

end Sys2Proof.Machine
end

