-- ==== Sys2Proof/Machine/Memory.lean ====
section
/-! DEFINITION. `mem`: what an unlisted address reads as, reading and writing one byte, and the canonical form
(spec/10_state.md R21 to R23, spec/20_memory.md R40 to R45). -/

namespace Sys2Proof.Machine

/-- The reset contents of an address, which is what an unlisted address reads as: the glyph set at 0x050 to 0x09F, glyph
`d` at `0x50 + 5d` (R23), and 0x00 elsewhere (R22, R35; D2). -/
def resetByte (rom : GlyphRom) (a : Nat) : Byte :=
  if h : glyphBase ≤ a ∧ a < glyphBase + glyphBytes then
    (rom[(a - glyphBase) / glyphCharSize]'(by
      have := h.1; have := h.2; simp only [glyphBase, glyphBytes, glyphCharSize] at *; omega))[(a - glyphBase) % glyphCharSize]'(by
      simp only [glyphCharSize]; omega)
  else 0

/-- The byte listed at an address. -/
def Memory.lookup (a : Nat) : Memory → Option Byte
  | [] => none
  | (k, b) :: m => if k = a then some b else Memory.lookup a m

/-- One byte of `mem` (R42): the listed byte, else the reset contents. -/
def Memory.read (rom : GlyphRom) (m : Memory) (a : Nat) : Byte :=
  match m.lookup a with
  | some b => b
  | none => resetByte rom a

/-- Puts a byte at an address of a canonical list, `dflt` being what the address reads as when unlisted. -/
def Memory.put (dflt : Byte) (a : Nat) (b : Byte) : Memory → Memory
  | [] => if b = dflt then [] else [(a, b)]
  | (k, c) :: m =>
    if a < k then (if b = dflt then (k, c) :: m else (a, b) :: (k, c) :: m)
    else if a = k then (if b = dflt then m else (a, b) :: m)
    else (k, c) :: Memory.put dflt a b m

/-- Writes one byte of `mem` (R43) and keeps the canonical form. -/
def Memory.write (rom : GlyphRom) (m : Memory) (a : Nat) (b : Byte) : Memory :=
  Memory.put (resetByte rom a) a b m

/-- Writes bytes at ascending addresses from `a` (R45). -/
def Memory.writeBytes (rom : GlyphRom) (m : Memory) (a : Nat) : List Byte → Memory
  | [] => m
  | b :: bs => Memory.writeBytes rom (m.write rom a b) (a + 1) bs

/-- The canonical form: addresses strictly rising and below `MEM_SIZE`, and no entry equal to what its address reads as
when unlisted. -/
abbrev Memory.wf (rom : GlyphRom) (m : Memory) : Prop :=
  m.Pairwise (fun c d => c.1 < d.1) ∧ ∀ c ∈ m, c.1 < memSize ∧ c.2 ≠ resetByte rom c.1

end Sys2Proof.Machine
end

