-- ==== Sys2Proof/Machine/Ops.lean ====
section
/-! DEFINITION. The named operations over the state: its updates, reading `mem`, the bounds checks, and taking a fault
(spec/20_memory.md R47, R48; spec/43_index_memory.md R124; spec/60_exceptions.md R151 to R156). -/

namespace Sys2Proof.Machine

/-! Updates, one per component. -/

/-- `V[x] <- b` (R7). -/
def State.setReg (s : State) (x : RegIdx) (b : Byte) : State := { s with v := s.v.set x.val b }
/-- All of `V` at once. -/
def State.setRegs (s : State) (v : Vector Byte 16) : State := { s with v := v }
/-- `I <- w`. -/
def State.setI (s : State) (w : Word) : State := { s with i := w }
/-- `pc <- w`. -/
def State.setPc (s : State) (w : Word) : State := { s with pc := w }
/-- The live stack entries, most recent first. -/
def State.setStack (s : State) (l : List Word) : State := { s with stack := l }
/-- `mem`. -/
def State.setMem (s : State) (m : Memory) : State := { s with mem := m }
/-- `disp`. -/
def State.setDisp (s : State) (g : Grid) : State := { s with disp := g }
/-- `DT <- b`. -/
def State.setDt (s : State) (b : Byte) : State := { s with dt := b }
/-- `ST <- b`. -/
def State.setSt (s : State) (b : Byte) : State := { s with st := b }
/-- The fault record. -/
def State.setFaultRec (s : State) (f : FaultRecord) : State := { s with faultRec := f }
/-- The model's own input queue and `Step` counter. -/
def State.setInputs (s : State) (l : List Input) (n : Nat) : State := { s with inputs := l, stepNo := n }

/-! Reading and writing `mem` through the state. -/

/-- `MemRead(a, 1)` (R42). Every rule checks the range first (R47), so no instruction reads an `a` above 0xFFF. -/
def State.byteAt (s : State) (a : Nat) : Byte := s.mem.read s.params.glyphRom a

/-- `MemRead(a, 2)`, big-endian, used by the fetch only (R44). -/
def State.wordAt (s : State) (a : Nat) : Word := wordOfBytes (s.byteAt a) (s.byteAt (a + 1))

/-- `MemWrite` of consecutive bytes at `a` (R43, R45); the range is checked first (R47, R48). -/
def State.storeBytes (s : State) (a : Nat) (bs : List Byte) : State :=
  s.setMem (s.mem.writeBytes s.params.glyphRom a bs)

/-! Faults. -/

/-- The code R151 gives a cause. -/
def Cause.code : Cause → BitVec 4
  | .none => 0
  | .fetchRange => 1
  | .stackUnderflow => 2
  | .stackOverflow => 3
  | .readRange => 4
  | .writeRange => 5
  | .writeProtect => 6
  | .keyIndex => 7

/-- Fault entry (R153): everything but the fault record as it was before the `Step`, so `PC` points at the faulting
instruction `pc0`, and the record latched. There is no vector, no handler and no return (R153, R156): only reset clears it. -/
def State.latchFault (s : State) (cause : Cause) (pc0 op : Word) (info : Nat) : State :=
  (s.setPc pc0).setFaultRec
    { fault := true, fcause := cause, fpc := pc0, fop := op, finfo := BitVec.ofNat 17 info }

/-- The address of the instruction whose body runs: the body sees `PC = pc0 + 2` (R82). -/
def State.pc0 (s : State) : Word := s.pc - 2

/-- `raise Fault(cause, info)` in an instruction body (R7, R85): the `PC` advance of R82 is undone and the opcode fetched at
`pc0` is recorded. A body raises before its first write (R85), so the rest is the state before the `Step`. -/
def State.raiseFault (s : State) (cause : Cause) (info : Nat) : State :=
  s.latchFault cause s.pc0 (s.wordAt s.pc0.toNat) info

/-- `raise Fault(1, pc0)` at the fetch (R81): no opcode was fetched, `fop` is 0x0000 (R153). -/
def State.raiseFetchFault (s : State) : State :=
  s.latchFault .fetchRange s.pc 0x0000 s.pc.toNat

/-- R124 and R136 for a load of `len` bytes at `i0`: the last address must exist. Nothing is checked when `len = 0`. -/
def checkLoad (i0 len : Nat) : Option (Cause × Nat) :=
  if 0 < len ∧ 0xFFF < i0 + len - 1 then some (.readRange, i0 + len - 1) else none

/-- R124 for a store of `len` bytes at `i0`: range first, then protection (R155). -/
def checkStore (i0 len : Nat) : Option (Cause × Nat) :=
  if 0 < len ∧ 0xFFF < i0 + len - 1 then some (.writeRange, i0 + len - 1)
  else if i0 < writeBase then some (.writeProtect, i0)
  else none

/-- A body under its fault check: the fault if there is one, else `t`. -/
def State.guarded (s : State) (check : Option (Cause × Nat)) (t : State) : State :=
  match check with
  | some (cause, info) => s.raiseFault cause info
  | none => t

end Sys2Proof.Machine
end

