-- ==== Sys2Proof/Machine/Operands.lean ====
section
/-! DEFINITION. Operand forms (spec/30_encoding.md R63): registers, 12-bit addresses, the address in `I`, a register
block, the sampled key and random byte. -/

namespace Sys2Proof.Machine

/-- `V[x]` (R7, R24): no register is hardwired. -/
def State.reg (s : State) (x : RegIdx) : Byte := s.v[x.val]

/-- `zext_16(NNN)` (R63). -/
def addrOf (nnn : Addr12) : Word := nnn.setWidth 16

/-- `I` as a natural-number address, not reduced modulo anything (R47). -/
def State.base (s : State) : Nat := s.i.toNat

/-- `V[0..x]`, the block FX55 stores (R63, R125). -/
def State.block (s : State) (x : RegIdx) : List Byte := s.v.toList.take (x.val + 1)

/-- `V` with `V[0..n−1]` replaced by `n` bytes of memory from `a` (R126). -/
def State.loadBlock (s : State) (a : Nat) : Nat → Vector Byte 16
  | 0 => s.v
  | n + 1 => (State.loadBlock s a n).setIfInBounds n (s.byteAt (a + n))

/-- `key[k]` of this `Step`'s sample (R33). -/
def State.keyDown (s : State) (k : Nat) : Bool := s.input.key.toList.getD k false

/-- Some key is pressed in this `Step`'s sample (R142). -/
def State.anyKey (s : State) : Bool := s.input.key.toList.any id

/-- R146: the key index is the whole register value and must be at most 15. -/
def checkKey (a : Byte) : Option (Cause × Nat) :=
  if 15 < a.toNat then some (.keyIndex, a.toNat) else none

end Sys2Proof.Machine
end

