-- ==== Sys2Proof/Machine/Flags.lean ====
section
/-! DEFINITION. The flag computations (spec/10_state.md R25, spec/42_alu.md R100) and the write of `VF`. Results are
computed on natural numbers and narrowed at the end. -/

namespace Sys2Proof.Machine

/-- Bits 7 to 0 of the 9-bit sum (R100, R107). -/
def sum8 (a b : Byte) : Byte := BitVec.ofNat 8 (a.toNat + b.toNat)
/-- Bit 8 of the 9-bit sum: `a + b > 255` (R107). -/
def carry8 (a b : Byte) : Bool := decide (255 < a.toNat + b.toNat)
/-- `(a − b) mod 256` (R100, R108). -/
def diff8 (a b : Byte) : Byte := BitVec.ofNat 8 (a.toNat + 256 - b.toNat)
/-- No borrow: minuend ≥ subtrahend (R100, R108). -/
def noBorrow (a b : Byte) : Bool := decide (b.toNat ≤ a.toNat)
/-- `a >> 1`, logical (R109). -/
def shiftRight1 (a : Byte) : Byte := BitVec.ofNat 8 (a.toNat / 2)
/-- `a[0]`, the bit shifted out to the right (R109). -/
def bitOutRight (a : Byte) : Bool := a.getLsbD 0
/-- `(a << 1) mod 256` (R111). -/
def shiftLeft1 (a : Byte) : Byte := BitVec.ofNat 8 (a.toNat * 2)
/-- `a[7]`, the bit shifted out to the left (R111). -/
def bitOutLeft (a : Byte) : Bool := a.getLsbD 7
/-- Bits 15 to 0 of the 17-bit sum of `I` and a register (R121). -/
def indexSum (i : Word) (a : Byte) : Word := BitVec.ofNat 16 (i.toNat + a.toNat)
/-- Bit 16 of that sum: `i + a > 65535` (R121). -/
def indexCarry (i : Word) (a : Byte) : Bool := decide (65535 < i.toNat + a.toNat)

/-- A flag as the byte `VF` holds (R25). -/
def flagByte (f : Bool) : Byte := if f then 1 else 0

/-- `V[0xF] <- f` (R25). -/
def State.setFlag (s : State) (f : Bool) : State := s.setReg vf (flagByte f)

/-- The result, then the flag: with `x = 0xF` the flag is what remains (R8, R112). -/
def State.setRegFlag (s : State) (x : RegIdx) (r : Byte) (f : Bool) : State := (s.setReg x r).setFlag f

end Sys2Proof.Machine
end

