-- ==== Sys2Proof/Machine/Cycle.lean ====
section
/-! DEFINITION. What a `Step` does around an instruction body (spec/40_step_cycle.md): fetch, `PC` advance, the silent no-op
of an undefined opcode, and the timer tick. -/

namespace Sys2Proof.Machine

/-- Phase 1a (R81): the opcode at `PC`, or nothing when one of its bytes would lie above 0xFFF. -/
def State.fetch (s : State) : Option Word := if 0xFFE < s.pc.toNat then none else some (s.wordAt s.pc.toNat)

/-- Phase 1b (R82): `PC + 2` modulo 65536. -/
def State.advance (s : State) : State := s.setPc (s.pc + 2)

/-- The body of an undefined opcode (R87): nothing. -/
def execUndefined (s : State) : Result := .next s

/-- One timer's tick: down by 1, floor at 0 (R86). -/
def tick (d : Byte) : Byte := if d = 0 then 0 else d - 1

/-- Phase 4 (R86), and the host's sample is used up. -/
def State.endStep (s : State) : State :=
  ((s.setDt (tick s.dt)).setSt (tick s.st)).setInputs s.inputs.tail (s.stepNo + 1)

/-- After the body: a `Step` that faulted does not tick (R85, R86, D21), every other one does. -/
def finishStep : Result → Result
  | .next s => .next (if s.halted then s else s.endStep)
  | .fault r => .fault r
  | .refused r => .refused r

end Sys2Proof.Machine
end

