-- ==== Sys2Proof/Machine/Alu.lean ====
section
/-! DEFINITION. The 8-bit ALU (spec/42_alu.md): operands are the values before the `Step` (R8), none of these faults. -/

namespace Sys2Proof.Machine

/-- 6XNN (R101). -/
def execLdImm (x : RegIdx) (nn : Byte) (s : State) : Result := .next (s.setReg x nn)

/-- 7XNN (R102): wraps, writes no flag. -/
def execAddImm (x : RegIdx) (nn : Byte) (s : State) : Result := .next (s.setReg x (sum8 (s.reg x) nn))

/-- 8XY0 (R103). -/
def execLdReg (x y : RegIdx) (s : State) : Result := .next (s.setReg x (s.reg y))

/-- 8XY1 (R104). -/
def execOrReg (x y : RegIdx) (s : State) : Result := .next (s.setReg x (s.reg x ||| s.reg y))

/-- 8XY2 (R105). -/
def execAndReg (x y : RegIdx) (s : State) : Result := .next (s.setReg x (s.reg x &&& s.reg y))

/-- 8XY3 (R106). -/
def execXorReg (x y : RegIdx) (s : State) : Result := .next (s.setReg x (s.reg x ^^^ s.reg y))

/-- 8XY4 (R107). -/
def execAddReg (x y : RegIdx) (s : State) : Result :=
  .next (s.setRegFlag x (sum8 (s.reg x) (s.reg y)) (carry8 (s.reg x) (s.reg y)))

/-- 8XY5 (R108). -/
def execSubReg (x y : RegIdx) (s : State) : Result :=
  .next (s.setRegFlag x (diff8 (s.reg x) (s.reg y)) (noBorrow (s.reg x) (s.reg y)))

/-- 8XY6 (R109): `V[Y]` is neither read nor written. -/
def execShr (x _y : RegIdx) (s : State) : Result :=
  .next (s.setRegFlag x (shiftRight1 (s.reg x)) (bitOutRight (s.reg x)))

/-- 8XY7 (R110). -/
def execSubnReg (x y : RegIdx) (s : State) : Result :=
  .next (s.setRegFlag x (diff8 (s.reg y) (s.reg x)) (noBorrow (s.reg y) (s.reg x)))

/-- 8XYE (R111): `V[Y]` is neither read nor written. -/
def execShl (x _y : RegIdx) (s : State) : Result :=
  .next (s.setRegFlag x (shiftLeft1 (s.reg x)) (bitOutLeft (s.reg x)))

/-- CXNN (R115): `rnd` is this `Step`'s sample, a free draw (R34). -/
def execRnd (x : RegIdx) (nn : Byte) (s : State) : Result := .next (s.setReg x (s.input.rnd &&& nn))

end Sys2Proof.Machine
end

