-- ==== Sys2Proof/Machine/ControlFlow.lean ====
section
/-! DEFINITION. Control flow (spec/41_control_flow.md): each body runs with `PC = pc0 + 2` (R82). -/

namespace Sys2Proof.Machine

/-- `if c then pc <- PC + 2` (R98 (d)). -/
def State.skipIf (s : State) (c : Bool) : State := s.setPc (if c then s.pc + 2 else s.pc)

/-- The stack has no room: `SP = STACK_DEPTH`, never when the depth is unbounded (R28, R92). -/
def State.stackFull (s : State) : Bool :=
  match s.params.stackDepth with
  | some d => decide (d ≤ s.sp)
  | none => false

/-- 00EE (R90). -/
def execRet (s : State) : Result :=
  match s.stack with
  | [] => .next (s.raiseFault .stackUnderflow s.pc0.toNat)
  | e :: rest => .next ((s.setStack rest).setPc e)

/-- 1NNN (R91). -/
def execJp (nnn : Addr12) (s : State) : Result := .next (s.setPc (addrOf nnn))

/-- 2NNN (R92): the pushed value is the advanced `PC`. -/
def execCall (nnn : Addr12) (s : State) : Result :=
  .next (s.guarded (if s.stackFull then some (.stackOverflow, s.pc0.toNat) else none)
    ((s.setStack (s.pc :: s.stack)).setPc (addrOf nnn)))

/-- BNNN (R93): `V[0]`, never `V[X]`; the sum is not reduced to 12 bits. -/
def execJpV0 (nnn : Addr12) (s : State) : Result :=
  .next (s.setPc (BitVec.ofNat 16 ((s.reg 0).toNat + nnn.toNat)))

/-- 3XNN (R94). -/
def execSeImm (x : RegIdx) (nn : Byte) (s : State) : Result := .next (s.skipIf (s.reg x == nn))

/-- 4XNN (R95). -/
def execSneImm (x : RegIdx) (nn : Byte) (s : State) : Result := .next (s.skipIf (s.reg x != nn))

/-- 5XY0 (R96). -/
def execSeReg (x y : RegIdx) (s : State) : Result := .next (s.skipIf (s.reg x == s.reg y))

/-- 9XY0 (R97). -/
def execSneReg (x y : RegIdx) (s : State) : Result := .next (s.skipIf (s.reg x != s.reg y))

end Sys2Proof.Machine
end

