-- ==== Sys2Proof/Machine/Display.lean ====
section
/-! DEFINITION. The sprite renderer (spec/44_draw.md): clear, and draw with XOR, clipping and collision. -/

namespace Sys2Proof.Machine

/-- `disp[x, y]`: column `x` from the left, row `y` from the top (R29); off the screen there is no cell and this is off. -/
def Grid.cell (g : Grid) (x y : Nat) : Bool :=
  if h : y < 32 ∧ x < 64 then (g[y]'h.1)[x]'h.2 else false

/-- `disp[x, y] <- disp[x, y] ^ 1` (R135); nothing off the screen. -/
def Grid.toggle (g : Grid) (x y : Nat) : Grid :=
  if h : y < 32 ∧ x < 64 then g.set y ((g[y]'h.1).set x (!(g[y]'h.1)[x]'h.2) h.2) h.1 else g

/-- The display and the collision accumulator `c` of R131 while a sprite is drawn. -/
structure Canvas where
  grid : Grid
  hit : Bool
  deriving DecidableEq, Repr

/-- One sprite bit at `(x, y)` (R131, R134, R135): off the screen it is not drawn and cannot collide. -/
def Canvas.plot (c : Canvas) (x y : Nat) (bit : Bool) : Canvas :=
  if y ≤ 31 ∧ x ≤ 63 ∧ bit = true then { grid := c.grid.toggle x y, hit := c.hit || c.grid.cell x y } else c

/-- One sprite row, columns left to right; bit 7 is the leftmost pixel (R133, D10). -/
def Canvas.drawRow (c : Canvas) (x0 y : Nat) (row : Byte) : Canvas :=
  (List.range 8).foldl (fun c k => c.plot (x0 + k) y (row.getLsbD (7 - k))) c

/-- The rows of a sprite, top to bottom (R131). -/
def Canvas.drawRows (c : Canvas) (x0 y0 : Nat) : List Byte → Canvas
  | [] => c
  | row :: rows => Canvas.drawRows (c.drawRow x0 y0 row) x0 (y0 + 1) rows

/-- The bytes of a sprite of `n` rows at `a` (R133). -/
def State.spriteRows (s : State) (a n : Nat) : List Byte := (List.range n).map (fun r => s.byteAt (a + r))

/-- The column of a sprite's origin: it wraps (R132). -/
def originX (a : Byte) : Nat := a.toNat % displayWidth
/-- The row of a sprite's origin: it wraps (R132). -/
def originY (b : Byte) : Nat := b.toNat % displayHeight

/-- 00E0 (R130). -/
def execCls (s : State) : Result := .next (s.setDisp Grid.blank)

/-- DXYN (R131): all `n` rows are checked, clipped or not (R136); `VF` is written last. -/
def execDrw (x y : RegIdx) (n : Nat) (s : State) : Result :=
  let c := Canvas.drawRows { grid := s.disp, hit := false } (originX (s.reg x)) (originY (s.reg y))
    (s.spriteRows s.base n)
  .next (s.guarded (checkLoad s.base n) ((s.setDisp c.grid).setFlag c.hit))

end Sys2Proof.Machine
end

