-- ==== Sys2Proof/Machine/IndexMemory.lean ====
section
/-! DEFINITION. The index register and the memory transfers (spec/43_index_memory.md). No memory instruction changes `I`
(R127). -/

namespace Sys2Proof.Machine

/-- ANNN (R120). -/
def execLdI (nnn : Addr12) (s : State) : Result := .next (s.setI (addrOf nnn))

/-- FX1E (R121): the carry threshold is the 16-bit width of `I`. -/
def execAddI (x : RegIdx) (s : State) : Result :=
  .next ((s.setI (indexSum s.i (s.reg x))).setFlag (indexCarry s.i (s.reg x)))

/-- FX29 (R122): the whole byte is used, not its low nibble. -/
def execLdF (x : RegIdx) (s : State) : Result :=
  .next (s.setI (BitVec.ofNat 16 (glyphBase + glyphCharSize * (s.reg x).toNat)))

/-- The three decimal digits of a byte: hundreds, tens, units (R123). -/
def bcdDigits (a : Byte) : List Byte :=
  [BitVec.ofNat 8 (a.toNat / 100), BitVec.ofNat 8 (a.toNat / 10 % 10), BitVec.ofNat 8 (a.toNat % 10)]

/-- FX33 (R123). -/
def execLdB (x : RegIdx) (s : State) : Result :=
  .next (s.guarded (checkStore s.base 3) (s.storeBytes s.base (bcdDigits (s.reg x))))

/-- FX55 (R125). -/
def execLdMemVx (x : RegIdx) (s : State) : Result :=
  .next (s.guarded (checkStore s.base (x.val + 1)) (s.storeBytes s.base (s.block x)))

/-- FX65 (R126). -/
def execLdVxMem (x : RegIdx) (s : State) : Result :=
  .next (s.guarded (checkLoad s.base (x.val + 1)) (s.setRegs (s.loadBlock s.base (x.val + 1))))

end Sys2Proof.Machine
end

