-- ==== Sys2Proof/Machine/KeypadTimers.lean ====
section
/-! DEFINITION. Keypad skips, key wait and timer access (spec/45_keypad_timers.md). -/

namespace Sys2Proof.Machine

/-- EX9E (R140). -/
def execSkp (x : RegIdx) (s : State) : Result :=
  .next (s.guarded (checkKey (s.reg x)) (s.skipIf (s.keyDown (s.reg x).toNat)))

/-- EXA1 (R141). -/
def execSknp (x : RegIdx) (s : State) : Result :=
  .next (s.guarded (checkKey (s.reg x)) (s.skipIf (!s.keyDown (s.reg x).toNat)))

/-- FX07 (R143): the value before this `Step`'s tick. -/
def execLdVxDt (x : RegIdx) (s : State) : Result := .next (s.setReg x s.dt)

/-- FX0A (R142): with no key pressed, back to `pc0`; no register is read or written. -/
def execLdVxK (_x : RegIdx) (s : State) : Result := .next (s.setPc (if s.anyKey then s.pc else s.pc - 2))

/-- FX15 (R144); the tick of the same `Step` follows (R147). -/
def execLdDtVx (x : RegIdx) (s : State) : Result := .next (s.setDt (s.reg x))

/-- FX18 (R145); the tick of the same `Step` follows (R147). -/
def execLdStVx (x : RegIdx) (s : State) : Result := .next (s.setSt (s.reg x))

end Sys2Proof.Machine
end

