-- ==== Sys2Proof/Machine/HostInterface.lean ====
section
/-! DEFINITION. What the host does to the core and reads from it (spec/60_exceptions.md R159, R161 to R167;
spec/70_reset_and_hazards.md R174). -/

namespace Sys2Proof.Machine

/-- The load (R174): the image verbatim from 0x200, or a refusal as a whole when it is longer than 3584 bytes (R159). -/
def State.loadImage (s : State) (img : List Byte) : Option State :=
  if img.length ≤ maxProgramBytes then some (s.storeBytes programBase img) else none

/-- The host lists the samples of the coming `Step`s (R33, R34, R161). -/
def State.presentInputs (s : State) (l : List Input) : State := s.setInputs l s.stepNo

/-- `disp_flat[y * 64 + x] = disp[x, y]`, 2048 cells, row-major (R164). -/
def State.dispFlat (s : State) : List Bool :=
  (List.range 2048).map (fun k => s.disp.cell (k % 64) (k / 64))

/-- `snd_active` (R166). -/
def State.sndActive (s : State) : Bool := s.st != 0

/-- Reset (R170): at any time, no inputs, no dependence on the prior state. The parameters are those of the machine, fixed for
its life (R11), and are kept. -/
def State.resetCore (s : State) : State := { State.reset with params := s.params, inputs := s.inputs, stepNo := s.stepNo }

end Sys2Proof.Machine
end

