-- ==== Sys2Proof/Machine/Run.lean ====
section
/-! DEFINITION. The whole transition in one piece (spec/40_step_cycle.md R80 to R88), and making a state ready to fetch a
given instruction. -/

namespace Sys2Proof.Machine

/-- Decode, execute, tick, for a fetched opcode (R83 to R87). An opcode that is no instruction is the silent no-op (R87). -/
def runOpcode (s : State) (op : Word) : Result :=
  match decodeWord s.params.alias59 op with
  | .ok i => finishStep (exec i s.advance)
  | .error _ => finishStep (execUndefined s.advance)

/-- `Step` (R88). A halted core does nothing (R80); a fetch out of range faults (R81). -/
def runStep (s : State) : Result :=
  if s.halted then .next s
  else
    match s.fetch with
    | none => .next s.raiseFetchFault
    | some op => runOpcode s op

/-- A state that fetches: a latched fault is cleared, and a `PC` that cannot be fetched from becomes the entry point 0x200
(R172; notes/assumptions/9.md). A state that fetches already is left as it is. -/
def State.readyToFetch (s : State) : State :=
  let s1 := if s.halted then s.setFaultRec FaultRecord.clear else s
  if 0xFFE < s1.pc.toNat then s1.setPc 0x0200 else s1

/-- The opcode stored at `PC`, big-endian (R44). The host places it; the write floor of R48 is for program stores. -/
def State.placeOpcode (s : State) (op : Word) : State := s.storeBytes s.pc.toNat (bytesOfWord op)

end Sys2Proof.Machine
end

