-- ==== Sys2Proof/Machine/Step.lean ====
section
/-! DEFINITION. The one transition of the machine, and placing an instruction for the next step. -/

namespace Sys2Proof.Machine

/-- `Step` (spec/40_step_cycle.md R80, R88). -/
def step (s : State) : Host.Outcome State Fault Refusal := runStep s

/-- The instruction `w` where the next step fetches. -/
def State.withFetchWord (s : State) (nbits w : Nat) : State :=
  s.readyToFetch.placeOpcode (BitVec.ofNat 16 (w % 2 ^ nbits))

end Sys2Proof.Machine
end

