-- ==== Sys2Proof/Safety.lean ====
section
/-! DEFINITION. The terms claims use: what a transition leaves unchanged, the spec's tables of who writes what and who faults
when, the invariant of a run, and the end of a run. -/

namespace Sys2Proof.Machine

/-! Frames. -/

/-- The components of the state: those of spec/10_state.md R20, then the model's own. -/
inductive Part where
  | regs | index | pc | stack | bytes | display | delay | sound | faultRec | params | input
  deriving DecidableEq, Repr

/-- A component has the same value in `t` as in `s`. Registers and memory are compared read by read. -/
def Part.kept : Part → State → State → Prop
  | .regs, s, t => ∀ r, t.reg r = s.reg r
  | .index, s, t => t.i = s.i
  | .pc, s, t => t.pc = s.pc
  | .stack, s, t => t.stack = s.stack
  | .bytes, s, t => ∀ a, t.byteAt a = s.byteAt a
  | .display, s, t => t.disp = s.disp
  | .delay, s, t => t.dt = s.dt
  | .sound, s, t => t.st = s.st
  | .faultRec, s, t => t.faultRec = s.faultRec
  | .params, s, t => t.params = s.params
  | .input, s, t => t.inputs = s.inputs ∧ t.stepNo = s.stepNo

/-- Every component outside `ps` is unchanged. -/
def KeepsAllBut (ps : List Part) (s t : State) : Prop := ∀ p, p ∉ ps → p.kept s t

/-- Every register outside `xs` is unchanged. -/
def KeepsRegsBut (xs : List RegIdx) (s t : State) : Prop := ∀ r, r ∉ xs → t.reg r = s.reg r

/-- Every byte outside the `n` bytes at `a` is unchanged. -/
def KeepsBytesOutside (a n : Nat) (s t : State) : Prop := ∀ b, b < a ∨ a + n ≤ b → t.byteAt b = s.byteAt b

/-- The components an instruction's body may write: the "Written by" column of R20, read by instruction. The fault record is
written by a faulting `Step` only. -/
def writtenParts : Instr → List Part
  | .cls => [.display]
  | .ret | .call _ => [.pc, .stack]
  | .jp _ | .jpV0 _ => [.pc]
  | .seImm _ _ | .sneImm _ _ | .seReg _ _ | .sneReg _ _ => [.pc]
  | .ldImm _ _ | .addImm _ _ | .ldReg _ _ | .orReg _ _ | .andReg _ _ | .xorReg _ _ => [.regs]
  | .addReg _ _ | .subReg _ _ | .shr _ _ | .subnReg _ _ | .shl _ _ | .rnd _ _ => [.regs]
  | .ldI _ | .ldF _ => [.index]
  | .addI _ => [.index, .regs]
  | .drw _ _ _ => [.display, .regs]
  | .skp _ | .sknp _ | .ldVxK _ => [.pc]
  | .ldVxDt _ | .ldVxMem _ => [.regs]
  | .ldDtVx _ => [.delay]
  | .ldStVx _ => [.sound]
  | .ldB _ | .ldMemVx _ => [.bytes]

/-- Whether an instruction may write `VF`: the seven flag writers of R25, FX65 with `X = 0xF`, and an instruction whose
destination `V[X]` is `VF`. -/
def mayWriteVf : Instr → Bool
  | .addReg _ _ | .subReg _ _ | .subnReg _ _ | .shr _ _ | .shl _ _ | .addI _ | .drw _ _ _ => true
  | .ldImm x _ | .addImm x _ | .ldReg x _ | .orReg x _ | .andReg x _ | .xorReg x _ | .rnd x _ => decide (x = vf)
  | .ldVxDt x | .ldVxMem x => decide (x = vf)
  | .cls | .ret | .jp _ | .call _ | .seImm _ _ | .sneImm _ _ | .seReg _ _ | .sneReg _ _ => false
  | .ldI _ | .jpV0 _ | .skp _ | .sknp _ | .ldVxK _ | .ldDtVx _ | .ldStVx _ | .ldF _ | .ldB _ | .ldMemVx _ => false

/-- The instructions that read the host's inputs: EX9E, EXA1 and FX0A read `key` (R33), CXNN reads `rnd` (R34). -/
def readsInput : Instr → Bool
  | .skp _ | .sknp _ | .ldVxK _ | .rnd _ _ => true
  | .cls | .ret | .jp _ | .call _ | .seImm _ _ | .sneImm _ _ | .seReg _ _ | .sneReg _ _ => false
  | .ldImm _ _ | .addImm _ _ | .ldReg _ _ | .orReg _ _ | .andReg _ _ | .xorReg _ _ => false
  | .addReg _ _ | .subReg _ _ | .shr _ _ | .subnReg _ _ | .shl _ _ => false
  | .ldI _ | .jpV0 _ | .drw _ _ _ | .ldVxDt _ | .ldDtVx _ | .ldStVx _ => false
  | .addI _ | .ldF _ | .ldB _ | .ldMemVx _ | .ldVxMem _ => false

/-! Faults. -/

/-- R151's table read by instruction: the condition under which a body faults, with its cause and what `finfo` records. The
state is the body's, with `PC = pc0 + 2`. -/
def faultOf : Instr → State → Option (Cause × Nat)
  | .ret, s => if s.sp = 0 then some (.stackUnderflow, s.pc0.toNat) else none
  | .call _, s =>
    if ∃ d ∈ s.params.stackDepth, d ≤ s.sp then some (.stackOverflow, s.pc0.toNat) else none
  | .drw _ _ n, s =>
    if 0 < n ∧ 0xFFF < s.i.toNat + n - 1 then some (.readRange, s.i.toNat + n - 1) else none
  | .ldVxMem x, s => if 0xFFF < s.i.toNat + x.val then some (.readRange, s.i.toNat + x.val) else none
  | .ldMemVx x, s =>
    if 0xFFF < s.i.toNat + x.val then some (.writeRange, s.i.toNat + x.val)
    else if s.i.toNat < 0x200 then some (.writeProtect, s.i.toNat) else none
  | .ldB _, s =>
    if 0xFFF < s.i.toNat + 2 then some (.writeRange, s.i.toNat + 2)
    else if s.i.toNat < 0x200 then some (.writeProtect, s.i.toNat) else none
  | .skp x, s => if 15 < (s.reg x).toNat then some (.keyIndex, (s.reg x).toNat) else none
  | .sknp x, s => if 15 < (s.reg x).toNat then some (.keyIndex, (s.reg x).toNat) else none
  | .cls, _ | .jp _, _ | .jpV0 _, _ | .seImm _ _, _ | .sneImm _ _, _ | .seReg _ _, _ | .sneReg _ _, _ => none
  | .ldImm _ _, _ | .addImm _ _, _ | .ldReg _ _, _ | .orReg _ _, _ | .andReg _ _, _ | .xorReg _ _, _ => none
  | .addReg _ _, _ | .subReg _ _, _ | .shr _ _, _ | .subnReg _ _, _ | .shl _ _, _ | .rnd _ _, _ => none
  | .ldI _, _ | .ldF _, _ | .addI _, _ | .ldVxDt _, _ | .ldVxK _, _ | .ldDtVx _, _ | .ldStVx _, _ => none

/-- `t` is `s` with a fault taken at `pc0` (R153): the record as given, `PC = pc0`, all else as it was. -/
def FaultTaken (cause : Cause) (pc0 op : Word) (info : Nat) (s t : State) : Prop :=
  t.faultRec = { fault := true, fcause := cause, fpc := pc0, fop := op, finfo := BitVec.ofNat 17 info } ∧
    t.pc = pc0 ∧ KeepsAllBut [.faultRec, .pc] s t

/-! Shapes of results. -/

/-- `V[x]` becomes `b` and nothing else changes. -/
def WritesReg (x : RegIdx) (b : Byte) (s t : State) : Prop :=
  t.reg x = b ∧ KeepsRegsBut [x] s t ∧ KeepsAllBut [.regs] s t

/-- `V[x]` becomes a byte of value `r`, then `VF` the flag, which is what remains when `x` is `VF` (R8, R112); nothing else
changes. -/
def WritesRegThenFlag (x : RegIdx) (r : Nat) (f : Prop) (s t : State) : Prop :=
  (x ≠ vf → (t.reg x).toNat = r) ∧ (f → t.reg vf = 1) ∧ (¬f → t.reg vf = 0) ∧
    KeepsRegsBut [x, vf] s t ∧ KeepsAllBut [.regs] s t

/-- `PC` goes on by 2 more when `c` holds and stays when it does not; nothing else changes (R98). -/
def SkipsWhen (c : Prop) (s t : State) : Prop :=
  (c → t.pc = s.pc + 2) ∧ (¬c → t.pc = s.pc) ∧ KeepsAllBut [.pc] s t

/-- Both timers of `t` are those of `s` after one tick (R86). -/
def TimersTicked (s t : State) : Prop := t.dt.toNat = s.dt.toNat - 1 ∧ t.st.toNat = s.st.toNat - 1

/-- The sprite bit that DXYN lays on the pixel `(p, q)` (R132, R133): row `q − y0`, bit `7 − (p − x0)`; no bit off the sprite.
Columns and rows off the screen are not asked for (R134). -/
def spriteBit (s : State) (x y : RegIdx) (n p q : Nat) : Bool :=
  let x0 := (s.reg x).toNat % 64
  let y0 := (s.reg y).toNat % 32
  decide (x0 ≤ p ∧ p < x0 + 8 ∧ y0 ≤ q ∧ q < y0 + n) && (s.byteAt (s.i.toNat + (q - y0))).getLsbD (7 - (p - x0))

/-- The opcode at `PC` is fetched and is instruction `i`. -/
def Runs (s : State) (i : Instr) : Prop :=
  s.halted = false ∧ s.pc.toNat ≤ 0xFFE ∧
    decode s.params.alias59 [s.byteAt s.pc.toNat, s.byteAt (s.pc.toNat + 1)] = .ok (i, [])

/-! The invariant of a run. -/

/-- What every step keeps and reset has: `mem` canonical with nothing below 0x200 changed (R22, R48), a stack within its
depth (R28) holding what 2NNN pushed (R90), a `PC` within reach (R27, R93), and a fault record that is all zero while
running and says where the core stands while halted (R32, R153). -/
structure Inv (s : State) : Prop where
  memory : s.mem.wf s.params.glyphRom
  lowUntouched : ∀ c ∈ s.mem, writeBase ≤ c.1
  depth : ∀ d, s.params.stackDepth = some d → s.sp ≤ d
  returns : ∀ e ∈ s.stack, e.toNat ≤ 0x1000
  counter : s.pc.toNat ≤ 0x10FE
  running : s.halted = false → s.faultRec = FaultRecord.clear
  stopped : s.halted = true → s.faultRec.fcause ≠ .none ∧ s.faultRec.fpc = s.pc

/-- No fault is latched (R154). -/
def State.safe (s : State) : Bool := !s.halted

/-- R177's end of a run: at `PC = a` stands a 1NNN that jumps to `a`. The core does not stop fetching there. -/
def State.atTerminalJump (s : State) : Prop :=
  s.pc.toNat ≤ 0xFFE ∧ s.wordAt s.pc.toNat = 0x1000#16 ||| s.pc

end Sys2Proof.Machine
end

