-- ==== Sys2Proof/Certificates/Slice0/Obligations.lean ====
section
/-! DEFINITION. The statements for the provers. Each docstring says which rule of spec/ it formalises. -/

open Sys2Proof Sys2Proof.Machine

/-! Encoding. -/

/-- Every well-formed instruction, with every operand, comes back from its two bytes, whatever `ALIAS_5_9` is and whatever
follows (R60 to R64, R68). -/
def Obligations.DecodeOfEncodeIsIdentity : Prop :=
  ∀ (alias59 : Bool) (i : Instr) (rest : List Byte), i.wellFormed = true →
    decode alias59 (bytesOfWord (encode i) ++ rest) = .ok (i, rest)

/-- With the default `ALIAS_5_9` each opcode has one meaning: what the decoder reads is well formed and encodes to it. -/
def Obligations.EncodeOfDecodeIsIdentity : Prop :=
  ∀ (op : Word) (i : Instr), decodeWord false op = .ok i → i.wellFormed = true ∧ encode i = op

/-- The decoder gives the instruction of the row an opcode matches, and only of a row it matches (R64). -/
def Obligations.DecoderFollowsOpcodeTable : Prop :=
  ∀ op : Word,
    (∀ r ∈ opcodeTable, op &&& r.mask = r.pattern → ∃ i, decodeWord false op = .ok i ∧ rowOf i = r) ∧
    (∀ i, decodeWord false op = .ok i → rowOf i ∈ opcodeTable ∧ op &&& (rowOf i).mask = (rowOf i).pattern)

/-- The undefined opcodes are exactly those of R66's table (with the default of D12), and every other one is an
instruction (R69). -/
def Obligations.UndefinedOpcodesAreThoseListed : Prop :=
  ∀ op : Word,
    let undefinedHere : Prop :=
      (fieldF op = 0x0 ∧ fieldNNN op ≠ 0x0E0 ∧ fieldNNN op ≠ 0x0EE) ∨
      (fieldF op = 0x5 ∧ fieldN op ≠ 0) ∨
      (fieldF op = 0x8 ∧ fieldN op ∈ ([0x8, 0x9, 0xA, 0xB, 0xC, 0xD, 0xF] : List (BitVec 4))) ∨
      (fieldF op = 0x9 ∧ fieldN op ≠ 0) ∨
      (fieldF op = 0xE ∧ fieldNN op ≠ 0x9E ∧ fieldNN op ≠ 0xA1) ∨
      (fieldF op = 0xF ∧ fieldNN op ∉ ([0x07, 0x0A, 0x15, 0x18, 0x1E, 0x29, 0x33, 0x55, 0x65] : List Byte))
    (undefinedHere → decodeWord false op = .error (.undefinedOpcode op)) ∧
    (¬undefinedHere → ∃ i, decodeWord false op = .ok i)

/-- `ALIAS_5_9` lets `5XYN` and `9XYN` with `N ≠ 0` execute as `5XY0` and `9XY0`, and changes no other opcode (R67, D12). -/
def Obligations.AliasParameterChangesOnly5And9 : Prop :=
  ∀ op : Word,
    (fieldF op = 0x5 → fieldN op ≠ 0 → decodeWord true op = .ok (.seReg (fieldX op) (fieldY op))) ∧
    (fieldF op = 0x9 → fieldN op ≠ 0 → decodeWord true op = .ok (.sneReg (fieldX op) (fieldY op))) ∧
    (¬((fieldF op = 0x5 ∨ fieldF op = 0x9) ∧ fieldN op ≠ 0) → decodeWord true op = decodeWord false op)

/-- Words written out in spec/95_test_vectors.md section 2.1 decode as it says. -/
def Obligations.SpecWordsDecodeAsListed : Prop :=
  decode false [0x12, 0x34] = .ok (.jp 0x234, []) ∧
  decode false [0x8A, 0xB4] = .ok (.addReg 10 11, []) ∧
  decode false [0xD0, 0x1F] = .ok (.drw 0 1 15, []) ∧
  decode false [0x00, 0xE0] = .ok (.cls, []) ∧
  decode false [0x00, 0xEE] = .ok (.ret, []) ∧
  decode false [0x01, 0xE0] = .error (.undefinedOpcode 0x01E0) ∧
  decode false [0xE5, 0x9E] = .ok (.skp 5, []) ∧
  decode false [0xF3, 0x65] = .ok (.ldVxMem 3, []) ∧
  decode false [0x51, 0x20] = .ok (.seReg 1 2, []) ∧
  decode false [0x51, 0x21] = .error (.undefinedOpcode 0x5121)

/-! The step. -/

/-- A step of a running core whose bytes at `PC` decode to `i` is `exec i` on the state with `PC` advanced by 2, and then both
timers tick (R81, R82, R84 to R86, R88). That a body that faulted ends the step with no tick is decisions D3 and D21
(notes/assumptions/13.md); that the sample is used up is the model's own (notes/assumptions/2.md). -/
def Obligations.StepRunsTheDecodedInstruction : Prop :=
  ∀ (s : State) (i : Instr), Runs s i →
    ∃ u, exec i { s with pc := s.pc + 2 } = .next u ∧
      (u.halted = true → step s = .next u) ∧
      (u.halted = false → step s = .next { u with
        dt := if u.dt = 0 then 0 else u.dt - 1, st := if u.st = 0 then 0 else u.st - 1,
        inputs := u.inputs.tail, stepNo := u.stepNo + 1 })

/-- The fetch is big-endian, at any alignment (R44). -/
def Obligations.FetchIsBigEndian : Prop :=
  ∀ s : State, s.pc.toNat ≤ 0xFFE → ∃ op, s.fetch = some op ∧
    op.extractLsb' 8 8 = s.byteAt s.pc.toNat ∧ op.extractLsb' 0 8 = s.byteAt (s.pc.toNat + 1)

/-- An undefined opcode advances `PC` by 2, ticks the timers and does nothing else (R87). -/
def Obligations.UndefinedOpcodeStepIsNoOp : Prop :=
  ∀ (s : State) (op : Word), s.halted = false → s.fetch = some op →
    decodeWord s.params.alias59 op = .error (.undefinedOpcode op) →
    ∃ t, step s = .next t ∧ t.pc = s.pc + 2 ∧ TimersTicked s t ∧ KeepsAllBut [.pc, .delay, .sound, .input] s t

/-- A fetch with `PC > 0xFFE` takes fault cause 1 and changes nothing but the fault record (R81, R153; decisions D3, D5). -/
def Obligations.FetchOutOfRangeFaults : Prop :=
  ∀ s : State, s.halted = false → 0xFFE < s.pc.toNat →
    ∃ t, step s = .next t ∧ FaultTaken .fetchRange s.pc 0x0000 s.pc.toNat s t

/-- A halted core stays exactly as it is, for any number of steps (R80, R156; decision D3). -/
def Obligations.HaltedCoreStaysAsItIs : Prop :=
  ∀ (k : Nat) (s : State), s.halted = true → Host.Core.run Sys2Proof.core k s = .next s

/-- Every step of every state answers a next state (R88), a fault too: the form of notes/assumptions/4.md. -/
def Obligations.EveryStepAnswersNext : Prop := ∀ s : State, ∃ t, step s = .next t

/-- A step that faults leaves everything but the fault record as it was, `PC` at the faulting instruction, no tick, and
records the cause, that `PC` and the fetched opcode, 0 for a fetch fault (R153, R85; decisions D3, D21). -/
def Obligations.FaultingStepIsPrecise : Prop :=
  ∀ s t : State, s.halted = false → step s = .next t → t.halted = true →
    ∃ cause info, cause ≠ .none ∧
      FaultTaken cause s.pc (if cause = .fetchRange then 0x0000 else s.wordAt s.pc.toNat) info s t

/-- Every instruction, in every running state, faults exactly under its condition in R151's table, with that cause and that
`finfo` (decisions D3 to D8 and D17; the state is the body's, so the instruction stands at `PC − 2`). -/
def Obligations.BodyFaultsExactlyAsTabulated : Prop :=
  ∀ (i : Instr) (s : State), s.halted = false → ∃ t, exec i s = .next t ∧
    (∀ cause info, faultOf i s = some (cause, info) →
      FaultTaken cause (s.pc - 2) (s.wordAt (s.pc - 2).toNat) info s t) ∧
    (faultOf i s = none → t.halted = false)

/-- Every step that does not fault ticks each timer once, floor 0, after its body: `DT` from `V[X]` when the body was FX15,
`ST` from `V[X]` when it was FX18, else from its old value (R86). -/
def Obligations.TimersTickOncePerStep : Prop :=
  ∀ s t : State, s.halted = false → step s = .next t → t.halted = false →
    ((∀ x, ¬Runs s (.ldDtVx x)) → t.dt.toNat = s.dt.toNat - 1) ∧
    (∀ x, Runs s (.ldDtVx x) → t.dt.toNat = (s.reg x).toNat - 1) ∧
    ((∀ x, ¬Runs s (.ldStVx x)) → t.st.toNat = s.st.toNat - 1) ∧
    (∀ x, Runs s (.ldStVx x) → t.st.toNat = (s.reg x).toNat - 1)

/-- Each component is written by the instructions R20 names for it and by no other: a body that does not fault keeps all the
rest, the fault record, the parameters and the inputs included. -/
def Obligations.OnlyNamedInstructionsWriteEachComponent : Prop :=
  ∀ (i : Instr) (s t : State), exec i s = .next t → t.halted = false → KeepsAllBut (writtenParts i) s t

/-- `VF` survives every instruction but the seven flag writers and those that name it as their destination (R25). -/
def Obligations.FlagRegisterSurvivesTheOthers : Prop :=
  ∀ (i : Instr) (s t : State), exec i s = .next t → mayWriteVf i = false → t.reg vf = s.reg vf

/-- A step that reads no input does the same whatever the host presents (R33, R34). The queue and the counter of samples are
the model's own (notes/assumptions/2.md). -/
def Obligations.InputsReachOnlyTheirReaders : Prop :=
  ∀ (s t : State) (l : List Input) (n : Nat), step s = .next t → (∀ i, Runs s i → readsInput i = false) →
    ∃ l' n', step (s.setInputs l n) = .next (t.setInputs l' n')

/-! Invariants. -/

/-- Every step keeps the invariant. -/
def Obligations.InvariantKeptByEveryStep : Prop := ∀ s t : State, Inv s → step s = .next t → Inv t

/-- The state after reset meets the invariant. -/
def Obligations.ResetMeetsTheInvariant : Prop := Inv State.reset

/-- No step changes a byte below 0x200: the glyph set is immutable (R22, R48; decision D6). -/
def Obligations.LowMemoryNeverChanges : Prop :=
  ∀ (s t : State) (a : Nat), s.mem.wf s.params.glyphRom → step s = .next t → a < 0x200 → t.byteAt a = s.byteAt a

/-- Two memories in canonical form that read the same everywhere are the same data (the model's own representation,
notes/assumptions/3.md). -/
def Obligations.CanonicalMemoryIsDeterminedByItsReads : Prop :=
  ∀ (rom : GlyphRom) (m m' : Memory), m.wf rom → m'.wf rom → (∀ a, m.read rom a = m'.read rom a) → m = m'

/-! The ALU. -/

/-- 6XNN, 8XY0, 8XY1, 8XY2, 8XY3 write their result to `V[X]` and nothing else, no flag (R101, R103 to R106). -/
def Obligations.LoadAndLogicResults : Prop :=
  ∀ (s : State) (x y : RegIdx) (nn : Byte),
    (∃ t, exec (.ldImm x nn) s = .next t ∧ WritesReg x nn s t) ∧
    (∃ t, exec (.ldReg x y) s = .next t ∧ WritesReg x (s.reg y) s t) ∧
    (∃ t, exec (.orReg x y) s = .next t ∧ WritesReg x (s.reg x ||| s.reg y) s t) ∧
    (∃ t, exec (.andReg x y) s = .next t ∧ WritesReg x (s.reg x &&& s.reg y) s t) ∧
    (∃ t, exec (.xorReg x y) s = .next t ∧ WritesReg x (s.reg x ^^^ s.reg y) s t)

/-- 7XNN adds modulo 256 and writes no flag (R102). -/
def Obligations.AddImmediateWrapsWithoutFlag : Prop :=
  ∀ (s : State) (x : RegIdx) (nn : Byte), ∃ t, exec (.addImm x nn) s = .next t ∧
    (t.reg x).toNat = ((s.reg x).toNat + nn.toNat) % 256 ∧ KeepsRegsBut [x] s t ∧ KeepsAllBut [.regs] s t

/-- 8XY4: the sum modulo 256, then `VF` the carry (R107). That the flag remains for `X = F` and the old `VF` is the addend for
`Y = F` (R8, R112) is decision D13 (notes/assumptions/12.md). -/
def Obligations.AddRegistersReportsCarry : Prop :=
  ∀ (s : State) (x y : RegIdx), ∃ t, exec (.addReg x y) s = .next t ∧
    WritesRegThenFlag x (((s.reg x).toNat + (s.reg y).toNat) % 256) (255 < (s.reg x).toNat + (s.reg y).toNat) s t

/-- 8XY5 and 8XY7: the difference modulo 256, then `VF` the no-borrow flag of the operands as they were (R108, R110). That the
flag remains for `X = F` and the old `VF` is the operand for `Y = F` (R8, R112) is decision D13 (notes/assumptions/12.md). -/
def Obligations.SubtractionReportsNoBorrow : Prop :=
  ∀ (s : State) (x y : RegIdx),
    (∃ t, exec (.subReg x y) s = .next t ∧
      WritesRegThenFlag x (((s.reg x).toNat + 256 - (s.reg y).toNat) % 256) ((s.reg y).toNat ≤ (s.reg x).toNat) s t) ∧
    (∃ t, exec (.subnReg x y) s = .next t ∧
      WritesRegThenFlag x (((s.reg y).toNat + 256 - (s.reg x).toNat) % 256) ((s.reg x).toNat ≤ (s.reg y).toNat) s t)

/-- 8XY6 and 8XYE shift `V[X]` in place by one, then `VF` the bit shifted out; `Y` is ignored (R109, R111). That the flag remains
for `X = F` (R8, R112) is decision D13 (notes/assumptions/12.md). -/
def Obligations.ShiftsReportTheBitShiftedOut : Prop :=
  ∀ (s : State) (x y : RegIdx),
    (∃ t, exec (.shr x y) s = .next t ∧
      WritesRegThenFlag x ((s.reg x).toNat / 2) ((s.reg x).toNat % 2 = 1) s t) ∧
    (∃ t, exec (.shl x y) s = .next t ∧
      WritesRegThenFlag x ((s.reg x).toNat * 2 % 256) (128 ≤ (s.reg x).toNat) s t)

/-- CXNN stores this step's random byte masked by `NN`, and nothing else, no flag: the listed sample's byte, or the free value;
whichever it is, no bit outside `NN` is set (R115; the queue of samples is the model's own, notes/assumptions/2.md). -/
def Obligations.RandomByteIsMasked : Prop :=
  ∀ (s : State) (x : RegIdx) (nn : Byte), ∃ t, exec (.rnd x nn) s = .next t ∧ WritesReg x (s.input.rnd &&& nn) s t ∧
    t.reg x &&& ~~~nn = 0 ∧ (∀ sample l, s.inputs = sample :: l → t.reg x = sample.rnd &&& nn)

/-! Control flow. -/

/-- 1NNN sets `PC` to `NNN`, BNNN to `V[0] + NNN`; nothing else changes (R91, R93). That the sum is not reduced to 12 bits rests
on the 16-bit `PC` of decision D14 (notes/assumptions/17.md). -/
def Obligations.JumpTargets : Prop :=
  ∀ (s : State) (nnn : Addr12),
    (∃ t, exec (.jp nnn) s = .next t ∧ t.pc.toNat = nnn.toNat ∧ KeepsAllBut [.pc] s t) ∧
    (∃ t, exec (.jpV0 nnn) s = .next t ∧ t.pc.toNat = (s.reg 0).toNat + nnn.toNat ∧ KeepsAllBut [.pc] s t)

/-- 2NNN with room on the stack pushes the advanced `PC` and goes to `NNN`; nothing else changes (R92; the finite depth is
decision D8). -/
def Obligations.CallPushesTheReturnAddress : Prop :=
  ∀ (s : State) (nnn : Addr12), (∀ d, s.params.stackDepth = some d → s.sp < d) →
    ∃ t, exec (.call nnn) s = .next t ∧ t.pc.toNat = nnn.toNat ∧ t.stack = s.pc :: s.stack ∧ KeepsAllBut [.pc, .stack] s t

/-- 00EE with a non-empty stack goes to the most recent entry and removes it; nothing else changes (R90, R28). -/
def Obligations.ReturnPopsTheLatestEntry : Prop :=
  ∀ (s : State) (e : Word) (rest : List Word), s.stack = e :: rest →
    ∃ t, exec .ret s = .next t ∧ t.pc = e ∧ t.stack = rest ∧ KeepsAllBut [.pc, .stack] s t

/-- A step of 00EE: the popped entry is the new `PC` and the timers tick; with an empty stack it takes the stack-underflow
fault, `fpc = pc0`, `fop = 0x00EE`, and changes nothing else (R90; the latch is decision D3, notes/assumptions/4.md). -/
def Obligations.ReturnStepPopsOrFaults : Prop :=
  ∀ s : State, s.halted = false → s.fetch = some 0x00EE →
    (∀ e rest, s.stack = e :: rest → ∃ t, step s = .next t ∧ t.pc = e ∧ t.stack = rest ∧ TimersTicked s t ∧
      KeepsAllBut [.pc, .stack, .delay, .sound, .input] s t) ∧
    (s.stack = [] → ∃ t, step s = .next t ∧ FaultTaken .stackUnderflow s.pc 0x00EE s.pc.toNat s t)

/-- A call followed at once by a return comes back to the instruction after the call, with the stack as it was
(spec/95_test_vectors.md S8; room on the stack is decision D8). -/
def Obligations.CallThenReturnComesBack : Prop :=
  ∀ (s : State) (nnn : Addr12), Runs s (.call nnn) → (∀ d, s.params.stackDepth = some d → s.sp < d) →
    nnn.toNat ≤ 0xFFE → s.wordAt nnn.toNat = 0x00EE →
    ∃ t u, step s = .next t ∧ t.pc.toNat = nnn.toNat ∧ step t = .next u ∧ u.pc = s.pc + 2 ∧ u.stack = s.stack ∧
      KeepsAllBut [.pc, .delay, .sound, .input] s u

/-- 3XNN, 4XNN, 5XY0, 9XY0 add exactly 2 to the advanced `PC` when their condition holds, and nothing else happens
(R94 to R97). -/
def Obligations.SkipsAddExactlyTwo : Prop :=
  ∀ (s : State) (x y : RegIdx) (nn : Byte),
    (∃ t, exec (.seImm x nn) s = .next t ∧ SkipsWhen (s.reg x = nn) s t) ∧
    (∃ t, exec (.sneImm x nn) s = .next t ∧ SkipsWhen (s.reg x ≠ nn) s t) ∧
    (∃ t, exec (.seReg x y) s = .next t ∧ SkipsWhen (s.reg x = s.reg y) s t) ∧
    (∃ t, exec (.sneReg x y) s = .next t ∧ SkipsWhen (s.reg x ≠ s.reg y) s t)

/-- At a 1NNN that jumps to itself every further step changes only the timers, which run down to 0 (R177, D23), and the model's
own inputs (notes/assumptions/2.md). -/
def Obligations.TerminalSelfJumpOnlyRunsTheTimers : Prop :=
  ∀ (k : Nat) (s : State), s.halted = false → s.atTerminalJump →
    ∃ t, Host.Core.run Sys2Proof.core k s = .next t ∧ t.dt.toNat = s.dt.toNat - k ∧ t.st.toNat = s.st.toNat - k ∧
      KeepsAllBut [.delay, .sound, .input] s t

/-! Keypad and timers. -/

/-- EX9E skips when the key `V[X]` is down in this step's sample, EXA1 when it is not, for `V[X] ≤ 15` (R140, R141; the check
is decision D7). -/
def Obligations.KeySkipsTestTheSample : Prop :=
  ∀ (s : State) (x : RegIdx) (k : Fin 16), (s.reg x).toNat = k.val →
    (∃ t, exec (.skp x) s = .next t ∧ SkipsWhen (s.input.key[k.val] = true) s t) ∧
    (∃ t, exec (.sknp x) s = .next t ∧ SkipsWhen (s.input.key[k.val] = false) s t)

/-- FX0A: with no key down the next step runs it again, with a key down it goes on; no register is written, and the timers tick
either way (R142). -/
def Obligations.KeyWaitRepeatsUntilAKeyIsDown : Prop :=
  ∀ (s : State) (x : RegIdx),
    ((∀ k : Fin 16, s.input.key[k.val] = false) →
      (∃ t, exec (.ldVxK x) s = .next t ∧ t.pc = s.pc - 2 ∧ KeepsAllBut [.pc] s t) ∧
      (Runs s (.ldVxK x) → ∃ t, step s = .next t ∧ TimersTicked s t ∧ KeepsAllBut [.delay, .sound, .input] s t)) ∧
    ((∃ k : Fin 16, s.input.key[k.val] = true) →
      (∃ t, exec (.ldVxK x) s = .next t ∧ KeepsAllBut [] s t) ∧
      (Runs s (.ldVxK x) → ∃ t, step s = .next t ∧ t.pc = s.pc + 2 ∧ TimersTicked s t ∧
        KeepsAllBut [.pc, .delay, .sound, .input] s t))

/-- FX07, FX15 and FX18 move a timer's value, and the tick of the same step follows: FX07 reads `DT` before it, FX15 and FX18
are ticked at once (R143 to R145). -/
def Obligations.TimerTransfersAndTheTick : Prop :=
  ∀ (s : State) (x : RegIdx),
    (∃ t, exec (.ldVxDt x) s = .next t ∧ WritesReg x s.dt s t) ∧
    (∃ t, exec (.ldDtVx x) s = .next t ∧ t.dt = s.reg x ∧ KeepsAllBut [.delay] s t) ∧
    (∃ t, exec (.ldStVx x) s = .next t ∧ t.st = s.reg x ∧ KeepsAllBut [.sound] s t) ∧
    (Runs s (.ldVxDt x) → ∃ t, step s = .next t ∧ t.reg x = s.dt ∧ t.pc = s.pc + 2 ∧ TimersTicked s t) ∧
    (Runs s (.ldDtVx x) → ∃ t, step s = .next t ∧ t.dt.toNat = (s.reg x).toNat - 1 ∧ t.st.toNat = s.st.toNat - 1 ∧
      KeepsAllBut [.pc, .delay, .sound, .input] s t) ∧
    (Runs s (.ldStVx x) → ∃ t, step s = .next t ∧ t.st.toNat = (s.reg x).toNat - 1 ∧ t.dt.toNat = s.dt.toNat - 1 ∧
      KeepsAllBut [.pc, .delay, .sound, .input] s t)

/-! The index register and memory. -/

/-- ANNN sets `I` to `NNN`, its upper four bits 0; nothing else changes (R120). -/
def Obligations.LoadIndexAddress : Prop :=
  ∀ (s : State) (nnn : Addr12), ∃ t, exec (.ldI nnn) s = .next t ∧ t.i.toNat = nnn.toNat ∧ KeepsAllBut [.index] s t

/-- FX1E: the sum modulo 65536, then `VF` the carry out of 16 bits (R121). That the old `VF` is the addend and then the flag
remains for `X = F` (R8) is decision D13 (notes/assumptions/12.md). -/
def Obligations.AddToIndexReportsCarry : Prop :=
  ∀ (s : State) (x : RegIdx), ∃ t, exec (.addI x) s = .next t ∧
    t.i.toNat = (s.i.toNat + (s.reg x).toNat) % 65536 ∧
    (65535 < s.i.toNat + (s.reg x).toNat → t.reg vf = 1) ∧ (¬65535 < s.i.toNat + (s.reg x).toNat → t.reg vf = 0) ∧
    KeepsRegsBut [vf] s t ∧ KeepsAllBut [.index, .regs] s t

/-- FX29 sets `I` to `0x50 + 5 * V[X]`, the whole byte (R122; the 5 is decision D9); nothing else changes. -/
def Obligations.GlyphAddressUsesTheWholeByte : Prop :=
  ∀ (s : State) (x : RegIdx), ∃ t, exec (.ldF x) s = .next t ∧ t.i.toNat = 0x50 + 5 * (s.reg x).toNat ∧
    KeepsAllBut [.index] s t

/-- FX33 stores hundreds, tens and units of `V[X]` at `I`, `I + 1`, `I + 2`; every other byte and everything else is unchanged
(R123; the range is that of decisions D5 and D6). -/
def Obligations.DecimalDigitsAreStored : Prop :=
  ∀ (s : State) (x : RegIdx), s.mem.wf s.params.glyphRom → 0x200 ≤ s.i.toNat → s.i.toNat + 2 ≤ 0xFFF →
    ∃ t, exec (.ldB x) s = .next t ∧
      (t.byteAt s.i.toNat).toNat = (s.reg x).toNat / 100 ∧
      (t.byteAt (s.i.toNat + 1)).toNat = (s.reg x).toNat / 10 % 10 ∧
      (t.byteAt (s.i.toNat + 2)).toNat = (s.reg x).toNat % 10 ∧
      KeepsBytesOutside s.i.toNat 3 s t ∧ KeepsAllBut [.bytes] s t

/-- FX55 stores `V[k]` at `I + k` for `k = 0 .. X`; every other byte and everything else, `I` included, is unchanged
(R125, R127; the range is that of decisions D5 and D6). -/
def Obligations.RegisterBlockIsStored : Prop :=
  ∀ (s : State) (x : RegIdx), s.mem.wf s.params.glyphRom → 0x200 ≤ s.i.toNat → s.i.toNat + x.val ≤ 0xFFF →
    ∃ t, exec (.ldMemVx x) s = .next t ∧ (∀ k : RegIdx, k ≤ x → t.byteAt (s.i.toNat + k.val) = s.reg k) ∧
      KeepsBytesOutside s.i.toNat (x.val + 1) s t ∧ KeepsAllBut [.bytes] s t

/-- FX65 loads `V[k]` from `I + k` for `k = 0 .. X`, from any address of `mem`; the registers above `X` and everything else are
unchanged (R126, R127; the range is that of decision D5). -/
def Obligations.RegisterBlockIsLoaded : Prop :=
  ∀ (s : State) (x : RegIdx), s.i.toNat + x.val ≤ 0xFFF →
    ∃ t, exec (.ldVxMem x) s = .next t ∧ (∀ k : RegIdx, k ≤ x → t.reg k = s.byteAt (s.i.toNat + k.val)) ∧
      (∀ k : RegIdx, x < k → t.reg k = s.reg k) ∧ KeepsAllBut [.regs] s t

/-- FX55, then any change of the registers, then FX65 with the same `X` and `I`, gives the registers back
(spec/95_test_vectors.md S7). -/
def Obligations.StoreThenLoadRoundTrips : Prop :=
  ∀ (s : State) (x : RegIdx) (v : Vector Byte 16), s.mem.wf s.params.glyphRom → 0x200 ≤ s.i.toNat →
    s.i.toNat + x.val ≤ 0xFFF →
    ∃ t u, exec (.ldMemVx x) s = .next t ∧ exec (.ldVxMem x) { t with v := v } = .next u ∧
      (∀ k : RegIdx, k ≤ x → u.reg k = s.reg k) ∧ (∀ k : RegIdx, x < k → u.reg k = v[k.val])

/-- An opcode stored by FX55 is what a later fetch of its two bytes reads, at any parity (R52; the range is that of decisions D5
and D6). -/
def Obligations.StoredBytesAreFetched : Prop :=
  ∀ (s : State) (x k : RegIdx), Runs s (.ldMemVx x) → s.mem.wf s.params.glyphRom → 0x200 ≤ s.i.toNat →
    s.i.toNat + x.val ≤ 0xFFF → (hk : k.val + 1 ≤ x.val) →
    ∃ t, step s = .next t ∧
      ({ t with pc := BitVec.ofNat 16 (s.i.toNat + k.val) } : State).fetch =
        some (s.reg k ++ s.reg ⟨k.val + 1, Nat.lt_of_le_of_lt hk x.isLt⟩)

/-! The display. -/

/-- 00E0 turns every cell off and changes nothing else (R130). -/
def Obligations.ClearScreenTurnsEveryCellOff : Prop :=
  ∀ s : State, ∃ t, exec .cls s = .next t ∧ (∀ x y, x < 64 → y < 32 → t.disp.cell x y = false) ∧ KeepsAllBut [.display] s t

/-- DXYN XORs each cell of the screen with the sprite bit that falls on it (origin wrapped, pixels clipped), sets `VF` to 1
exactly when a cell that was on was hit by a 1, and changes nothing else (R131 to R136; bit 7 at the left is decision D10,
the range is that of D5 and D17; that the old `VF` supplies a coordinate of DFYN and DXFN is D13, notes/assumptions/12.md). -/
def Obligations.DrawXorsTheClippedSprite : Prop :=
  ∀ (s : State) (x y : RegIdx) (n : Nat), (n = 0 ∨ s.i.toNat + n - 1 ≤ 0xFFF) →
    ∃ t, exec (.drw x y n) s = .next t ∧
      (∀ p q, p < 64 → q < 32 → t.disp.cell p q = (s.disp.cell p q ^^ spriteBit s x y n p q)) ∧
      ((∃ p q, p < 64 ∧ q < 32 ∧ spriteBit s x y n p q = true ∧ s.disp.cell p q = true) → t.reg vf = 1) ∧
      ((¬∃ p q, p < 64 ∧ q < 32 ∧ spriteBit s x y n p q = true ∧ s.disp.cell p q = true) → t.reg vf = 0) ∧
      KeepsRegsBut [vf] s t ∧ KeepsAllBut [.display, .regs] s t

/-- Drawing the same sprite at the same place twice gives the display back (spec/95_test_vectors.md S5), for coordinates that
are not in `VF`. -/
def Obligations.DrawTwiceRestoresTheDisplay : Prop :=
  ∀ (s : State) (x y : RegIdx) (n : Nat), (n = 0 ∨ s.i.toNat + n - 1 ≤ 0xFFF) → x ≠ vf → y ≠ vf →
    ∃ t u, exec (.drw x y n) s = .next t ∧ exec (.drw x y n) t = .next u ∧ u.disp = s.disp

/-! Reset and the host. -/

/-- The state after reset (R35, R170): `PC = 0x0200` and the glyph set are the document's, the zeros decision D2. A reset at
any later time gives the same from any state, with the machine's own parameters. -/
def Obligations.ResetStateValues : Prop :=
  ∀ s t : State, t = State.reset ∨ t = s.resetCore →
    t.pc = 0x0200 ∧ (∀ r, t.reg r = 0) ∧ t.i = 0 ∧ t.sp = 0 ∧ t.dt = 0 ∧ t.st = 0 ∧
    (∀ x y, t.disp.cell x y = false) ∧ t.faultRec = FaultRecord.clear ∧
    (∀ (d : Fin 16) (j : Fin 5), t.byteAt (0x50 + 5 * d.val + j.val) = t.params.glyphRom[d.val][j.val]) ∧
    (∀ a, a < 4096 → (a < 0x50 ∨ 0xA0 ≤ a) → t.byteAt a = 0)

/-- The load copies an image of at most 3584 bytes verbatim to 0x200 and changes nothing else; a longer one is refused as a
whole (R174). -/
def Obligations.ProgramImageIsLoadedOrRefused : Prop :=
  ∀ (s : State) (img : List Byte), s.mem.wf s.params.glyphRom →
    (img.length ≤ 3584 → ∃ t, s.loadImage img = some t ∧
      (∀ k (h : k < img.length), t.byteAt (0x200 + k) = img[k]) ∧
      KeepsBytesOutside 0x200 img.length s t ∧ KeepsAllBut [.bytes] s t) ∧
    (3584 < img.length → s.loadImage img = none)

/-- What the host reads (R164, R166; decisions D15, D19): the framebuffer row by row, and whether the sound timer runs. -/
def Obligations.HostOutputs : Prop :=
  ∀ s : State, s.dispFlat.length = 2048 ∧
    (∀ x y, x < 64 → y < 32 → s.dispFlat[y * 64 + x]? = some (s.disp.cell x y)) ∧
    (s.sndActive = true ↔ s.st.toNat ≠ 0)
end

