-- ==== Sys2Proof/Laws/Decoding.lean ====
section
/-! SUPPORT. The bits of an opcode built by the encoder's formats, its fields, and an opcode as its fields. -/

namespace Sys2Proof

theorem getLsbD_formatNNN (f : BitVec 4) (nnn : Addr12) (i : Nat) :
    (formatNNN f nnn).getLsbD i = if i < 12 then nnn.getLsbD i else f.getLsbD (i - 12) :=
  BitVec.getLsbD_append

theorem getLsbD_formatXNN (f : BitVec 4) (x : RegIdx) (nn : Byte) (i : Nat) :
    (formatXNN f x nn).getLsbD i =
      if i < 8 then nn.getLsbD i
      else if i - 8 < 4 then (BitVec.ofFin x : BitVec 4).getLsbD (i - 8) else f.getLsbD (i - 8 - 4) :=
  BitVec.getLsbD_append.trans (by rw [BitVec.getLsbD_append])

theorem getLsbD_formatXYN (f : BitVec 4) (x y : RegIdx) (n : BitVec 4) (i : Nat) :
    (formatXYN f x y n).getLsbD i =
      if i < 4 then n.getLsbD i
      else if i - 4 < 4 then (BitVec.ofFin y : BitVec 4).getLsbD (i - 4)
      else if i - 4 - 4 < 4 then (BitVec.ofFin x : BitVec 4).getLsbD (i - 4 - 4) else f.getLsbD (i - 4 - 4 - 4) :=
  BitVec.getLsbD_append.trans (by rw [BitVec.getLsbD_append, BitVec.getLsbD_append])

theorem getLsbD_wordOfBytes (b0 b1 : Byte) (i : Nat) :
    (wordOfBytes b0 b1).getLsbD i = if i < 8 then b1.getLsbD i else b0.getLsbD (i - 8) :=
  BitVec.getLsbD_append

@[simp] theorem fieldF_formatNNN (f : BitVec 4) (nnn : Addr12) : fieldF (formatNNN f nnn) = f := by
  apply BitVec.eq_of_getLsbD_eq; intro i h
  rw [fieldF, BitVec.getLsbD_extractLsb', getLsbD_formatNNN]
  interval_cases i <;> simp

@[simp] theorem fieldNNN_formatNNN (f : BitVec 4) (nnn : Addr12) : fieldNNN (formatNNN f nnn) = nnn := by
  apply BitVec.eq_of_getLsbD_eq; intro i h
  rw [fieldNNN, BitVec.getLsbD_extractLsb', getLsbD_formatNNN]
  interval_cases i <;> simp

@[simp] theorem fieldF_formatXNN (f : BitVec 4) (x : RegIdx) (nn : Byte) : fieldF (formatXNN f x nn) = f := by
  apply BitVec.eq_of_getLsbD_eq; intro i h
  rw [fieldF, BitVec.getLsbD_extractLsb', getLsbD_formatXNN]
  interval_cases i <;> simp

@[simp] theorem fieldX_formatXNN (f : BitVec 4) (x : RegIdx) (nn : Byte) : fieldX (formatXNN f x nn) = x := by
  have : (formatXNN f x nn).extractLsb' 8 4 = BitVec.ofFin x := by
    apply BitVec.eq_of_getLsbD_eq; intro i h
    rw [BitVec.getLsbD_extractLsb', getLsbD_formatXNN]
    interval_cases i <;> simp
  simp [fieldX, this]

@[simp] theorem fieldNN_formatXNN (f : BitVec 4) (x : RegIdx) (nn : Byte) : fieldNN (formatXNN f x nn) = nn := by
  apply BitVec.eq_of_getLsbD_eq; intro i h
  rw [fieldNN, BitVec.getLsbD_extractLsb', getLsbD_formatXNN]
  interval_cases i <;> simp

@[simp] theorem fieldF_formatXYN (f : BitVec 4) (x y : RegIdx) (n : BitVec 4) : fieldF (formatXYN f x y n) = f := by
  apply BitVec.eq_of_getLsbD_eq; intro i h
  rw [fieldF, BitVec.getLsbD_extractLsb', getLsbD_formatXYN]
  interval_cases i <;> simp

@[simp] theorem fieldX_formatXYN (f : BitVec 4) (x y : RegIdx) (n : BitVec 4) : fieldX (formatXYN f x y n) = x := by
  have : (formatXYN f x y n).extractLsb' 8 4 = BitVec.ofFin x := by
    apply BitVec.eq_of_getLsbD_eq; intro i h
    rw [BitVec.getLsbD_extractLsb', getLsbD_formatXYN]
    interval_cases i <;> simp
  simp [fieldX, this]

@[simp] theorem fieldY_formatXYN (f : BitVec 4) (x y : RegIdx) (n : BitVec 4) : fieldY (formatXYN f x y n) = y := by
  have : (formatXYN f x y n).extractLsb' 4 4 = BitVec.ofFin y := by
    apply BitVec.eq_of_getLsbD_eq; intro i h
    rw [BitVec.getLsbD_extractLsb', getLsbD_formatXYN]
    interval_cases i <;> simp
  simp [fieldY, this]

@[simp] theorem fieldN_formatXYN (f : BitVec 4) (x y : RegIdx) (n : BitVec 4) : fieldN (formatXYN f x y n) = n := by
  apply BitVec.eq_of_getLsbD_eq; intro i h
  rw [fieldN, BitVec.getLsbD_extractLsb', getLsbD_formatXYN]
  interval_cases i <;> simp

/-- An opcode is its family and its 12-bit field. -/
theorem word_eq_formatNNN (op : Word) : op = formatNNN (fieldF op) (fieldNNN op) := by
  apply BitVec.eq_of_getLsbD_eq; intro i h
  rw [getLsbD_formatNNN, fieldF, fieldNNN, BitVec.getLsbD_extractLsb', BitVec.getLsbD_extractLsb']
  interval_cases i <;> simp

/-- An opcode is its family, `X` and `NN`. -/
theorem word_eq_formatXNN (op : Word) : op = formatXNN (fieldF op) (fieldX op) (fieldNN op) := by
  have hx : (BitVec.ofFin (fieldX op) : BitVec 4) = op.extractLsb' 8 4 := rfl
  apply BitVec.eq_of_getLsbD_eq; intro i h
  rw [getLsbD_formatXNN, hx, fieldF, fieldNN]
  simp only [BitVec.getLsbD_extractLsb']
  interval_cases i <;> simp

/-- An opcode is its four nibbles. -/
theorem word_eq_formatXYN (op : Word) : op = formatXYN (fieldF op) (fieldX op) (fieldY op) (fieldN op) := by
  have hx : (BitVec.ofFin (fieldX op) : BitVec 4) = op.extractLsb' 8 4 := rfl
  have hy : (BitVec.ofFin (fieldY op) : BitVec 4) = op.extractLsb' 4 4 := rfl
  apply BitVec.eq_of_getLsbD_eq; intro i h
  rw [getLsbD_formatXYN, hx, hy, fieldF, fieldN]
  simp only [BitVec.getLsbD_extractLsb']
  interval_cases i <;> simp

/-- Two bytes joined and taken apart again (R44). -/
@[simp] theorem wordOfBytes_extract (op : Word) : wordOfBytes (op.extractLsb' 8 8) (op.extractLsb' 0 8) = op := by
  apply BitVec.eq_of_getLsbD_eq; intro i h
  rw [getLsbD_wordOfBytes, BitVec.getLsbD_extractLsb', BitVec.getLsbD_extractLsb']
  interval_cases i <;> simp

end Sys2Proof
end

