-- ==== Sys2Proof/Laws/State.lean ====
section
/-! SUPPORT. One lemma per component per update, true by rfl, and the same for the accessors the meanings use. -/

namespace Sys2Proof.Machine

variable (s : State)

/-! `setReg`. -/
@[simp] theorem State.setReg_v (x : RegIdx) (b : Byte) : (s.setReg x b).v = s.v.set x.val b := rfl
@[simp] theorem State.setReg_i (x : RegIdx) (b : Byte) : (s.setReg x b).i = s.i := rfl
@[simp] theorem State.setReg_pc (x : RegIdx) (b : Byte) : (s.setReg x b).pc = s.pc := rfl
@[simp] theorem State.setReg_stack (x : RegIdx) (b : Byte) : (s.setReg x b).stack = s.stack := rfl
@[simp] theorem State.setReg_mem (x : RegIdx) (b : Byte) : (s.setReg x b).mem = s.mem := rfl
@[simp] theorem State.setReg_disp (x : RegIdx) (b : Byte) : (s.setReg x b).disp = s.disp := rfl
@[simp] theorem State.setReg_dt (x : RegIdx) (b : Byte) : (s.setReg x b).dt = s.dt := rfl
@[simp] theorem State.setReg_st (x : RegIdx) (b : Byte) : (s.setReg x b).st = s.st := rfl
@[simp] theorem State.setReg_faultRec (x : RegIdx) (b : Byte) : (s.setReg x b).faultRec = s.faultRec := rfl
@[simp] theorem State.setReg_params (x : RegIdx) (b : Byte) : (s.setReg x b).params = s.params := rfl
@[simp] theorem State.setReg_inputs (x : RegIdx) (b : Byte) : (s.setReg x b).inputs = s.inputs := rfl
@[simp] theorem State.setReg_stepNo (x : RegIdx) (b : Byte) : (s.setReg x b).stepNo = s.stepNo := rfl
@[simp] theorem State.setReg_byteAt (x : RegIdx) (b : Byte) (a : Nat) : (s.setReg x b).byteAt a = s.byteAt a := rfl
@[simp] theorem State.setReg_wordAt (x : RegIdx) (b : Byte) (a : Nat) : (s.setReg x b).wordAt a = s.wordAt a := rfl
@[simp] theorem State.setReg_base (x : RegIdx) (b : Byte) : (s.setReg x b).base = s.base := rfl
@[simp] theorem State.setReg_halted (x : RegIdx) (b : Byte) : (s.setReg x b).halted = s.halted := rfl
@[simp] theorem State.setReg_input (x : RegIdx) (b : Byte) : (s.setReg x b).input = s.input := rfl
@[simp] theorem State.setReg_sp (x : RegIdx) (b : Byte) : (s.setReg x b).sp = s.sp := rfl
@[simp] theorem State.setReg_pc0 (x : RegIdx) (b : Byte) : (s.setReg x b).pc0 = s.pc0 := rfl

/-! `setRegs`. -/
@[simp] theorem State.setRegs_v (w : Vector Byte 16) : (s.setRegs w).v = w := rfl
@[simp] theorem State.setRegs_i (w : Vector Byte 16) : (s.setRegs w).i = s.i := rfl
@[simp] theorem State.setRegs_pc (w : Vector Byte 16) : (s.setRegs w).pc = s.pc := rfl
@[simp] theorem State.setRegs_stack (w : Vector Byte 16) : (s.setRegs w).stack = s.stack := rfl
@[simp] theorem State.setRegs_mem (w : Vector Byte 16) : (s.setRegs w).mem = s.mem := rfl
@[simp] theorem State.setRegs_disp (w : Vector Byte 16) : (s.setRegs w).disp = s.disp := rfl
@[simp] theorem State.setRegs_dt (w : Vector Byte 16) : (s.setRegs w).dt = s.dt := rfl
@[simp] theorem State.setRegs_st (w : Vector Byte 16) : (s.setRegs w).st = s.st := rfl
@[simp] theorem State.setRegs_faultRec (w : Vector Byte 16) : (s.setRegs w).faultRec = s.faultRec := rfl
@[simp] theorem State.setRegs_params (w : Vector Byte 16) : (s.setRegs w).params = s.params := rfl
@[simp] theorem State.setRegs_inputs (w : Vector Byte 16) : (s.setRegs w).inputs = s.inputs := rfl
@[simp] theorem State.setRegs_stepNo (w : Vector Byte 16) : (s.setRegs w).stepNo = s.stepNo := rfl
@[simp] theorem State.setRegs_byteAt (w : Vector Byte 16) (a : Nat) : (s.setRegs w).byteAt a = s.byteAt a := rfl
@[simp] theorem State.setRegs_wordAt (w : Vector Byte 16) (a : Nat) : (s.setRegs w).wordAt a = s.wordAt a := rfl
@[simp] theorem State.setRegs_base (w : Vector Byte 16) : (s.setRegs w).base = s.base := rfl
@[simp] theorem State.setRegs_halted (w : Vector Byte 16) : (s.setRegs w).halted = s.halted := rfl
@[simp] theorem State.setRegs_input (w : Vector Byte 16) : (s.setRegs w).input = s.input := rfl
@[simp] theorem State.setRegs_sp (w : Vector Byte 16) : (s.setRegs w).sp = s.sp := rfl
@[simp] theorem State.setRegs_pc0 (w : Vector Byte 16) : (s.setRegs w).pc0 = s.pc0 := rfl

/-! `setI`. -/
@[simp] theorem State.setI_v (w : Word) : (s.setI w).v = s.v := rfl
@[simp] theorem State.setI_i (w : Word) : (s.setI w).i = w := rfl
@[simp] theorem State.setI_pc (w : Word) : (s.setI w).pc = s.pc := rfl
@[simp] theorem State.setI_stack (w : Word) : (s.setI w).stack = s.stack := rfl
@[simp] theorem State.setI_mem (w : Word) : (s.setI w).mem = s.mem := rfl
@[simp] theorem State.setI_disp (w : Word) : (s.setI w).disp = s.disp := rfl
@[simp] theorem State.setI_dt (w : Word) : (s.setI w).dt = s.dt := rfl
@[simp] theorem State.setI_st (w : Word) : (s.setI w).st = s.st := rfl
@[simp] theorem State.setI_faultRec (w : Word) : (s.setI w).faultRec = s.faultRec := rfl
@[simp] theorem State.setI_params (w : Word) : (s.setI w).params = s.params := rfl
@[simp] theorem State.setI_inputs (w : Word) : (s.setI w).inputs = s.inputs := rfl
@[simp] theorem State.setI_stepNo (w : Word) : (s.setI w).stepNo = s.stepNo := rfl
@[simp] theorem State.setI_reg (w : Word) (r : RegIdx) : (s.setI w).reg r = s.reg r := rfl
@[simp] theorem State.setI_byteAt (w : Word) (a : Nat) : (s.setI w).byteAt a = s.byteAt a := rfl
@[simp] theorem State.setI_wordAt (w : Word) (a : Nat) : (s.setI w).wordAt a = s.wordAt a := rfl
@[simp] theorem State.setI_halted (w : Word) : (s.setI w).halted = s.halted := rfl
@[simp] theorem State.setI_input (w : Word) : (s.setI w).input = s.input := rfl
@[simp] theorem State.setI_sp (w : Word) : (s.setI w).sp = s.sp := rfl
@[simp] theorem State.setI_pc0 (w : Word) : (s.setI w).pc0 = s.pc0 := rfl

/-! `setPc`. -/
@[simp] theorem State.setPc_v (w : Word) : (s.setPc w).v = s.v := rfl
@[simp] theorem State.setPc_i (w : Word) : (s.setPc w).i = s.i := rfl
@[simp] theorem State.setPc_pc (w : Word) : (s.setPc w).pc = w := rfl
@[simp] theorem State.setPc_stack (w : Word) : (s.setPc w).stack = s.stack := rfl
@[simp] theorem State.setPc_mem (w : Word) : (s.setPc w).mem = s.mem := rfl
@[simp] theorem State.setPc_disp (w : Word) : (s.setPc w).disp = s.disp := rfl
@[simp] theorem State.setPc_dt (w : Word) : (s.setPc w).dt = s.dt := rfl
@[simp] theorem State.setPc_st (w : Word) : (s.setPc w).st = s.st := rfl
@[simp] theorem State.setPc_faultRec (w : Word) : (s.setPc w).faultRec = s.faultRec := rfl
@[simp] theorem State.setPc_params (w : Word) : (s.setPc w).params = s.params := rfl
@[simp] theorem State.setPc_inputs (w : Word) : (s.setPc w).inputs = s.inputs := rfl
@[simp] theorem State.setPc_stepNo (w : Word) : (s.setPc w).stepNo = s.stepNo := rfl
@[simp] theorem State.setPc_reg (w : Word) (r : RegIdx) : (s.setPc w).reg r = s.reg r := rfl
@[simp] theorem State.setPc_byteAt (w : Word) (a : Nat) : (s.setPc w).byteAt a = s.byteAt a := rfl
@[simp] theorem State.setPc_wordAt (w : Word) (a : Nat) : (s.setPc w).wordAt a = s.wordAt a := rfl
@[simp] theorem State.setPc_base (w : Word) : (s.setPc w).base = s.base := rfl
@[simp] theorem State.setPc_halted (w : Word) : (s.setPc w).halted = s.halted := rfl
@[simp] theorem State.setPc_input (w : Word) : (s.setPc w).input = s.input := rfl
@[simp] theorem State.setPc_sp (w : Word) : (s.setPc w).sp = s.sp := rfl

/-! `setStack`. -/
@[simp] theorem State.setStack_v (l : List Word) : (s.setStack l).v = s.v := rfl
@[simp] theorem State.setStack_i (l : List Word) : (s.setStack l).i = s.i := rfl
@[simp] theorem State.setStack_pc (l : List Word) : (s.setStack l).pc = s.pc := rfl
@[simp] theorem State.setStack_stack (l : List Word) : (s.setStack l).stack = l := rfl
@[simp] theorem State.setStack_mem (l : List Word) : (s.setStack l).mem = s.mem := rfl
@[simp] theorem State.setStack_disp (l : List Word) : (s.setStack l).disp = s.disp := rfl
@[simp] theorem State.setStack_dt (l : List Word) : (s.setStack l).dt = s.dt := rfl
@[simp] theorem State.setStack_st (l : List Word) : (s.setStack l).st = s.st := rfl
@[simp] theorem State.setStack_faultRec (l : List Word) : (s.setStack l).faultRec = s.faultRec := rfl
@[simp] theorem State.setStack_params (l : List Word) : (s.setStack l).params = s.params := rfl
@[simp] theorem State.setStack_inputs (l : List Word) : (s.setStack l).inputs = s.inputs := rfl
@[simp] theorem State.setStack_stepNo (l : List Word) : (s.setStack l).stepNo = s.stepNo := rfl
@[simp] theorem State.setStack_reg (l : List Word) (r : RegIdx) : (s.setStack l).reg r = s.reg r := rfl
@[simp] theorem State.setStack_byteAt (l : List Word) (a : Nat) : (s.setStack l).byteAt a = s.byteAt a := rfl
@[simp] theorem State.setStack_wordAt (l : List Word) (a : Nat) : (s.setStack l).wordAt a = s.wordAt a := rfl
@[simp] theorem State.setStack_base (l : List Word) : (s.setStack l).base = s.base := rfl
@[simp] theorem State.setStack_halted (l : List Word) : (s.setStack l).halted = s.halted := rfl
@[simp] theorem State.setStack_input (l : List Word) : (s.setStack l).input = s.input := rfl
@[simp] theorem State.setStack_pc0 (l : List Word) : (s.setStack l).pc0 = s.pc0 := rfl

/-! `setMem`. -/
@[simp] theorem State.setMem_v (m : Memory) : (s.setMem m).v = s.v := rfl
@[simp] theorem State.setMem_i (m : Memory) : (s.setMem m).i = s.i := rfl
@[simp] theorem State.setMem_pc (m : Memory) : (s.setMem m).pc = s.pc := rfl
@[simp] theorem State.setMem_stack (m : Memory) : (s.setMem m).stack = s.stack := rfl
@[simp] theorem State.setMem_mem (m : Memory) : (s.setMem m).mem = m := rfl
@[simp] theorem State.setMem_disp (m : Memory) : (s.setMem m).disp = s.disp := rfl
@[simp] theorem State.setMem_dt (m : Memory) : (s.setMem m).dt = s.dt := rfl
@[simp] theorem State.setMem_st (m : Memory) : (s.setMem m).st = s.st := rfl
@[simp] theorem State.setMem_faultRec (m : Memory) : (s.setMem m).faultRec = s.faultRec := rfl
@[simp] theorem State.setMem_params (m : Memory) : (s.setMem m).params = s.params := rfl
@[simp] theorem State.setMem_inputs (m : Memory) : (s.setMem m).inputs = s.inputs := rfl
@[simp] theorem State.setMem_stepNo (m : Memory) : (s.setMem m).stepNo = s.stepNo := rfl
@[simp] theorem State.setMem_reg (m : Memory) (r : RegIdx) : (s.setMem m).reg r = s.reg r := rfl
@[simp] theorem State.setMem_base (m : Memory) : (s.setMem m).base = s.base := rfl
@[simp] theorem State.setMem_halted (m : Memory) : (s.setMem m).halted = s.halted := rfl
@[simp] theorem State.setMem_input (m : Memory) : (s.setMem m).input = s.input := rfl
@[simp] theorem State.setMem_sp (m : Memory) : (s.setMem m).sp = s.sp := rfl
@[simp] theorem State.setMem_pc0 (m : Memory) : (s.setMem m).pc0 = s.pc0 := rfl

/-! `setDisp`. -/
@[simp] theorem State.setDisp_v (g : Grid) : (s.setDisp g).v = s.v := rfl
@[simp] theorem State.setDisp_i (g : Grid) : (s.setDisp g).i = s.i := rfl
@[simp] theorem State.setDisp_pc (g : Grid) : (s.setDisp g).pc = s.pc := rfl
@[simp] theorem State.setDisp_stack (g : Grid) : (s.setDisp g).stack = s.stack := rfl
@[simp] theorem State.setDisp_mem (g : Grid) : (s.setDisp g).mem = s.mem := rfl
@[simp] theorem State.setDisp_disp (g : Grid) : (s.setDisp g).disp = g := rfl
@[simp] theorem State.setDisp_dt (g : Grid) : (s.setDisp g).dt = s.dt := rfl
@[simp] theorem State.setDisp_st (g : Grid) : (s.setDisp g).st = s.st := rfl
@[simp] theorem State.setDisp_faultRec (g : Grid) : (s.setDisp g).faultRec = s.faultRec := rfl
@[simp] theorem State.setDisp_params (g : Grid) : (s.setDisp g).params = s.params := rfl
@[simp] theorem State.setDisp_inputs (g : Grid) : (s.setDisp g).inputs = s.inputs := rfl
@[simp] theorem State.setDisp_stepNo (g : Grid) : (s.setDisp g).stepNo = s.stepNo := rfl
@[simp] theorem State.setDisp_reg (g : Grid) (r : RegIdx) : (s.setDisp g).reg r = s.reg r := rfl
@[simp] theorem State.setDisp_byteAt (g : Grid) (a : Nat) : (s.setDisp g).byteAt a = s.byteAt a := rfl
@[simp] theorem State.setDisp_wordAt (g : Grid) (a : Nat) : (s.setDisp g).wordAt a = s.wordAt a := rfl
@[simp] theorem State.setDisp_base (g : Grid) : (s.setDisp g).base = s.base := rfl
@[simp] theorem State.setDisp_halted (g : Grid) : (s.setDisp g).halted = s.halted := rfl
@[simp] theorem State.setDisp_input (g : Grid) : (s.setDisp g).input = s.input := rfl
@[simp] theorem State.setDisp_sp (g : Grid) : (s.setDisp g).sp = s.sp := rfl
@[simp] theorem State.setDisp_pc0 (g : Grid) : (s.setDisp g).pc0 = s.pc0 := rfl

/-! `setDt`. -/
@[simp] theorem State.setDt_v (b : Byte) : (s.setDt b).v = s.v := rfl
@[simp] theorem State.setDt_i (b : Byte) : (s.setDt b).i = s.i := rfl
@[simp] theorem State.setDt_pc (b : Byte) : (s.setDt b).pc = s.pc := rfl
@[simp] theorem State.setDt_stack (b : Byte) : (s.setDt b).stack = s.stack := rfl
@[simp] theorem State.setDt_mem (b : Byte) : (s.setDt b).mem = s.mem := rfl
@[simp] theorem State.setDt_disp (b : Byte) : (s.setDt b).disp = s.disp := rfl
@[simp] theorem State.setDt_dt (b : Byte) : (s.setDt b).dt = b := rfl
@[simp] theorem State.setDt_st (b : Byte) : (s.setDt b).st = s.st := rfl
@[simp] theorem State.setDt_faultRec (b : Byte) : (s.setDt b).faultRec = s.faultRec := rfl
@[simp] theorem State.setDt_params (b : Byte) : (s.setDt b).params = s.params := rfl
@[simp] theorem State.setDt_inputs (b : Byte) : (s.setDt b).inputs = s.inputs := rfl
@[simp] theorem State.setDt_stepNo (b : Byte) : (s.setDt b).stepNo = s.stepNo := rfl
@[simp] theorem State.setDt_reg (b : Byte) (r : RegIdx) : (s.setDt b).reg r = s.reg r := rfl
@[simp] theorem State.setDt_byteAt (b : Byte) (a : Nat) : (s.setDt b).byteAt a = s.byteAt a := rfl
@[simp] theorem State.setDt_wordAt (b : Byte) (a : Nat) : (s.setDt b).wordAt a = s.wordAt a := rfl
@[simp] theorem State.setDt_base (b : Byte) : (s.setDt b).base = s.base := rfl
@[simp] theorem State.setDt_halted (b : Byte) : (s.setDt b).halted = s.halted := rfl
@[simp] theorem State.setDt_input (b : Byte) : (s.setDt b).input = s.input := rfl
@[simp] theorem State.setDt_sp (b : Byte) : (s.setDt b).sp = s.sp := rfl
@[simp] theorem State.setDt_pc0 (b : Byte) : (s.setDt b).pc0 = s.pc0 := rfl

/-! `setSt`. -/
@[simp] theorem State.setSt_v (b : Byte) : (s.setSt b).v = s.v := rfl
@[simp] theorem State.setSt_i (b : Byte) : (s.setSt b).i = s.i := rfl
@[simp] theorem State.setSt_pc (b : Byte) : (s.setSt b).pc = s.pc := rfl
@[simp] theorem State.setSt_stack (b : Byte) : (s.setSt b).stack = s.stack := rfl
@[simp] theorem State.setSt_mem (b : Byte) : (s.setSt b).mem = s.mem := rfl
@[simp] theorem State.setSt_disp (b : Byte) : (s.setSt b).disp = s.disp := rfl
@[simp] theorem State.setSt_dt (b : Byte) : (s.setSt b).dt = s.dt := rfl
@[simp] theorem State.setSt_st (b : Byte) : (s.setSt b).st = b := rfl
@[simp] theorem State.setSt_faultRec (b : Byte) : (s.setSt b).faultRec = s.faultRec := rfl
@[simp] theorem State.setSt_params (b : Byte) : (s.setSt b).params = s.params := rfl
@[simp] theorem State.setSt_inputs (b : Byte) : (s.setSt b).inputs = s.inputs := rfl
@[simp] theorem State.setSt_stepNo (b : Byte) : (s.setSt b).stepNo = s.stepNo := rfl
@[simp] theorem State.setSt_reg (b : Byte) (r : RegIdx) : (s.setSt b).reg r = s.reg r := rfl
@[simp] theorem State.setSt_byteAt (b : Byte) (a : Nat) : (s.setSt b).byteAt a = s.byteAt a := rfl
@[simp] theorem State.setSt_wordAt (b : Byte) (a : Nat) : (s.setSt b).wordAt a = s.wordAt a := rfl
@[simp] theorem State.setSt_base (b : Byte) : (s.setSt b).base = s.base := rfl
@[simp] theorem State.setSt_halted (b : Byte) : (s.setSt b).halted = s.halted := rfl
@[simp] theorem State.setSt_input (b : Byte) : (s.setSt b).input = s.input := rfl
@[simp] theorem State.setSt_sp (b : Byte) : (s.setSt b).sp = s.sp := rfl
@[simp] theorem State.setSt_pc0 (b : Byte) : (s.setSt b).pc0 = s.pc0 := rfl

/-! `setFaultRec`. -/
@[simp] theorem State.setFaultRec_v (f : FaultRecord) : (s.setFaultRec f).v = s.v := rfl
@[simp] theorem State.setFaultRec_i (f : FaultRecord) : (s.setFaultRec f).i = s.i := rfl
@[simp] theorem State.setFaultRec_pc (f : FaultRecord) : (s.setFaultRec f).pc = s.pc := rfl
@[simp] theorem State.setFaultRec_stack (f : FaultRecord) : (s.setFaultRec f).stack = s.stack := rfl
@[simp] theorem State.setFaultRec_mem (f : FaultRecord) : (s.setFaultRec f).mem = s.mem := rfl
@[simp] theorem State.setFaultRec_disp (f : FaultRecord) : (s.setFaultRec f).disp = s.disp := rfl
@[simp] theorem State.setFaultRec_dt (f : FaultRecord) : (s.setFaultRec f).dt = s.dt := rfl
@[simp] theorem State.setFaultRec_st (f : FaultRecord) : (s.setFaultRec f).st = s.st := rfl
@[simp] theorem State.setFaultRec_faultRec (f : FaultRecord) : (s.setFaultRec f).faultRec = f := rfl
@[simp] theorem State.setFaultRec_params (f : FaultRecord) : (s.setFaultRec f).params = s.params := rfl
@[simp] theorem State.setFaultRec_inputs (f : FaultRecord) : (s.setFaultRec f).inputs = s.inputs := rfl
@[simp] theorem State.setFaultRec_stepNo (f : FaultRecord) : (s.setFaultRec f).stepNo = s.stepNo := rfl
@[simp] theorem State.setFaultRec_reg (f : FaultRecord) (r : RegIdx) : (s.setFaultRec f).reg r = s.reg r := rfl
@[simp] theorem State.setFaultRec_byteAt (f : FaultRecord) (a : Nat) : (s.setFaultRec f).byteAt a = s.byteAt a := rfl
@[simp] theorem State.setFaultRec_wordAt (f : FaultRecord) (a : Nat) : (s.setFaultRec f).wordAt a = s.wordAt a := rfl
@[simp] theorem State.setFaultRec_base (f : FaultRecord) : (s.setFaultRec f).base = s.base := rfl
@[simp] theorem State.setFaultRec_input (f : FaultRecord) : (s.setFaultRec f).input = s.input := rfl
@[simp] theorem State.setFaultRec_sp (f : FaultRecord) : (s.setFaultRec f).sp = s.sp := rfl
@[simp] theorem State.setFaultRec_pc0 (f : FaultRecord) : (s.setFaultRec f).pc0 = s.pc0 := rfl

/-! `setInputs`. -/
@[simp] theorem State.setInputs_v (l : List Input) (n : Nat) : (s.setInputs l n).v = s.v := rfl
@[simp] theorem State.setInputs_i (l : List Input) (n : Nat) : (s.setInputs l n).i = s.i := rfl
@[simp] theorem State.setInputs_pc (l : List Input) (n : Nat) : (s.setInputs l n).pc = s.pc := rfl
@[simp] theorem State.setInputs_stack (l : List Input) (n : Nat) : (s.setInputs l n).stack = s.stack := rfl
@[simp] theorem State.setInputs_mem (l : List Input) (n : Nat) : (s.setInputs l n).mem = s.mem := rfl
@[simp] theorem State.setInputs_disp (l : List Input) (n : Nat) : (s.setInputs l n).disp = s.disp := rfl
@[simp] theorem State.setInputs_dt (l : List Input) (n : Nat) : (s.setInputs l n).dt = s.dt := rfl
@[simp] theorem State.setInputs_st (l : List Input) (n : Nat) : (s.setInputs l n).st = s.st := rfl
@[simp] theorem State.setInputs_faultRec (l : List Input) (n : Nat) : (s.setInputs l n).faultRec = s.faultRec := rfl
@[simp] theorem State.setInputs_params (l : List Input) (n : Nat) : (s.setInputs l n).params = s.params := rfl
@[simp] theorem State.setInputs_inputs (l : List Input) (n : Nat) : (s.setInputs l n).inputs = l := rfl
@[simp] theorem State.setInputs_stepNo (l : List Input) (n : Nat) : (s.setInputs l n).stepNo = n := rfl
@[simp] theorem State.setInputs_reg (l : List Input) (n : Nat) (r : RegIdx) : (s.setInputs l n).reg r = s.reg r := rfl
@[simp] theorem State.setInputs_byteAt (l : List Input) (n : Nat) (a : Nat) : (s.setInputs l n).byteAt a = s.byteAt a := rfl
@[simp] theorem State.setInputs_wordAt (l : List Input) (n : Nat) (a : Nat) : (s.setInputs l n).wordAt a = s.wordAt a := rfl
@[simp] theorem State.setInputs_base (l : List Input) (n : Nat) : (s.setInputs l n).base = s.base := rfl
@[simp] theorem State.setInputs_halted (l : List Input) (n : Nat) : (s.setInputs l n).halted = s.halted := rfl
@[simp] theorem State.setInputs_sp (l : List Input) (n : Nat) : (s.setInputs l n).sp = s.sp := rfl
@[simp] theorem State.setInputs_pc0 (l : List Input) (n : Nat) : (s.setInputs l n).pc0 = s.pc0 := rfl

end Sys2Proof.Machine
end

