-- ==== Sys2Proof/Laws/Faults.lean ====
section
/-! SUPPORT. The fault checks and fault entry: when each check gives a fault, and what a latched fault holds. -/

namespace Sys2Proof.Machine

theorem checkLoad_eq_none {i0 len : Nat} : checkLoad i0 len = none ↔ len = 0 ∨ i0 + len ≤ memSize := by
  unfold checkLoad memSize; split <;> simp <;> omega

theorem checkStore_eq_none {i0 len : Nat} : checkStore i0 len = none ↔ (len = 0 ∨ i0 + len ≤ memSize) ∧ writeBase ≤ i0 := by
  unfold checkStore memSize writeBase; split
  · simp; omega
  · split <;> simp <;> omega

theorem checkKey_eq_none {a : Byte} : checkKey a = none ↔ a.toNat ≤ 15 := by
  unfold checkKey; split <;> simp <;> omega

@[simp] theorem State.guarded_none (s t : State) : s.guarded none t = t := rfl
@[simp] theorem State.guarded_some (s t : State) (c : Cause) (n : Nat) : s.guarded (some (c, n)) t = s.raiseFault c n := rfl

/-- A guarded body ends in its fault or in the body's state, by its check. -/
theorem State.guarded_cases (s t : State) (check : Option (Cause × Nat)) :
    (check = none ∧ s.guarded check t = t) ∨ ∃ c n, check = some (c, n) ∧ s.guarded check t = s.raiseFault c n := by
  rcases check with _ | ⟨c, n⟩
  · exact .inl ⟨rfl, rfl⟩
  · exact .inr ⟨c, n, rfl, rfl⟩

@[simp] theorem State.latchFault_faultRec (s : State) (c : Cause) (p op : Word) (n : Nat) :
    (s.latchFault c p op n).faultRec = { fault := true, fcause := c, fpc := p, fop := op, finfo := BitVec.ofNat 17 n } := rfl
@[simp] theorem State.latchFault_pc (s : State) (c : Cause) (p op : Word) (n : Nat) : (s.latchFault c p op n).pc = p := rfl
@[simp] theorem State.latchFault_halted (s : State) (c : Cause) (p op : Word) (n : Nat) : (s.latchFault c p op n).halted = true := rfl
@[simp] theorem State.raiseFault_halted (s : State) (c : Cause) (n : Nat) : (s.raiseFault c n).halted = true := rfl
@[simp] theorem State.raiseFault_pc (s : State) (c : Cause) (n : Nat) : (s.raiseFault c n).pc = s.pc0 := rfl

theorem State.latchFault_keeps (s : State) (c : Cause) (p op : Word) (n : Nat) :
    KeepsAllBut [.faultRec, .pc] s (s.latchFault c p op n) := by
  intro q hq
  cases q <;> simp [Part.kept] at hq ⊢ <;> first | exact ⟨rfl, rfl⟩ | (intros; rfl)

/-- Fault entry (R153), once and for all. -/
theorem State.latchFault_taken (s : State) (c : Cause) (p op : Word) (n : Nat) :
    FaultTaken c p op n s (s.latchFault c p op n) :=
  ⟨rfl, rfl, s.latchFault_keeps c p op n⟩

theorem State.raiseFault_taken (s : State) (c : Cause) (n : Nat) :
    FaultTaken c s.pc0 (s.wordAt s.pc0.toNat) n s (s.raiseFault c n) :=
  s.latchFault_taken c _ _ n

/-- The body's `PC − 2` is the `PC` the `Step` started with (R82). -/
@[simp] theorem State.pc0_advance (s : State) : s.advance.pc0 = s.pc := by
  simp [State.pc0, State.advance]

/-- A fault in a body undoes the advance: it is a fault of the state before the step (R85). -/
theorem State.raiseFault_advance (s : State) (c : Cause) (n : Nat) :
    s.advance.raiseFault c n = s.latchFault c s.pc (s.wordAt s.pc.toNat) n := by
  unfold State.raiseFault; rw [State.pc0_advance]; rfl

end Sys2Proof.Machine
end

