-- ==== Sys2Proof/Laws/Display.lean ====
section
/-! SUPPORT. The display: a cell after a toggle, a pixel, a row, a sprite. -/

namespace Sys2Proof.Machine

@[simp] theorem Grid.cell_blank (x y : Nat) : Grid.blank.cell x y = false := by
  simp only [Grid.cell, Grid.blank]
  split <;> simp

/-- Only cells on the screen can be on. -/
theorem Grid.cell_outside (g : Grid) {x y : Nat} (h : ¬(y < 32 ∧ x < 64)) : g.cell x y = false := by
  simp [Grid.cell, h]

/-- A toggle changes its own cell and no other (R135). -/
theorem Grid.cell_toggle (g : Grid) (x y p q : Nat) (h : y < 32 ∧ x < 64) :
    (g.toggle x y).cell p q = if p = x ∧ q = y then !g.cell x y else g.cell p q := by
  by_cases hpq : q < 32 ∧ p < 64
  · simp only [Grid.cell, Grid.toggle, h, hpq, and_self, dite_true, Vector.getElem_set]
    by_cases hq : y = q
    · subst hq
      by_cases hp : x = p
      · subst hp; simp
      · simp [hp, Ne.symm hp]
    · simp [hq, Ne.symm hq]
  · have : ¬(p = x ∧ q = y) := by rintro ⟨rfl, rfl⟩; exact hpq h
    simp [Grid.cell_outside _ hpq, this]

/-- Two displays with the same cells are the same display. -/
theorem Grid.ext_cell {g g' : Grid} (h : ∀ x y, x < 64 → y < 32 → g.cell x y = g'.cell x y) : g = g' := by
  apply Vector.ext
  intro y hy
  apply Vector.ext
  intro x hx
  have := h x y hx hy
  simpa [Grid.cell, hx, hy] using this

/-- The sprite bit that falls on a pixel of the screen: bit `7 − k` of row `r`, for column `k` and row `r` counted from the
origin (R133); off the sprite, no bit. -/
def spritePixel (x0 y0 : Nat) (rows : List Byte) (p q : Nat) : Bool :=
  decide (x0 ≤ p ∧ p < x0 + 8 ∧ y0 ≤ q) && (rows.getD (q - y0) 0).getLsbD (7 - (p - x0))

/-- The pixels of columns `0 .. n−1` of one row. -/
theorem Canvas.foldl_plot (c : Canvas) (x0 y : Nat) (row : Byte) (n : Nat) (hn : n ≤ 8) :
    let d := (List.range n).foldl (fun c k => c.plot (x0 + k) y (row.getLsbD (7 - k))) c
    (∀ p q, d.grid.cell p q = ((c.grid.cell p q) ^^
        (decide (q = y ∧ q < 32 ∧ p < 64 ∧ x0 ≤ p ∧ p < x0 + n) && row.getLsbD (7 - (p - x0))))) ∧
    (d.hit = true ↔ c.hit = true ∨ ∃ p, y < 32 ∧ p < 64 ∧ x0 ≤ p ∧ p < x0 + n ∧ row.getLsbD (7 - (p - x0)) = true ∧
        c.grid.cell p y = true) := by
  induction n with
  | zero =>
    refine ⟨fun p q => ?_, ?_⟩
    · have h : decide (q = y ∧ q < 32 ∧ p < 64 ∧ x0 ≤ p ∧ p < x0 + 0) = false := decide_eq_false (by omega)
      rw [h]; simp
    · constructor
      · exact .inl
      · rintro (h | ⟨p, h⟩)
        · exact h
        · omega
  | succ n ih =>
    obtain ⟨hg, hh⟩ := ih (by omega)
    simp only [List.range_succ, List.foldl_append, List.foldl_cons, List.foldl_nil]
    generalize (List.range n).foldl (fun c k => c.plot (x0 + k) y (row.getLsbD (7 - k))) c = d at hg hh
    simp only [Canvas.plot]
    split
    · rename_i hc
      obtain ⟨hy, hx, hb⟩ := hc
      have hcell : d.grid.cell (x0 + n) y = c.grid.cell (x0 + n) y := by rw [hg]; simp
      constructor
      · intro p q
        rw [Grid.cell_toggle _ _ _ _ _ (by omega)]
        by_cases hpq : p = x0 + n ∧ q = y
        · obtain ⟨rfl, rfl⟩ := hpq
          have : (q = q ∧ q < 32 ∧ x0 + n < 64 ∧ x0 ≤ x0 + n ∧ x0 + n < x0 + (n + 1)) := by omega
          simp [hcell, hb, this]
        · have : (q = y ∧ q < 32 ∧ p < 64 ∧ x0 ≤ p ∧ p < x0 + (n + 1)) ↔
              (q = y ∧ q < 32 ∧ p < 64 ∧ x0 ≤ p ∧ p < x0 + n) := by omega
          simp only [hpq, if_false, hg, this]
      · rw [Bool.or_eq_true, hh, hcell]
        constructor
        · rintro ((h | ⟨p, h1, h2, h3, h4, h5⟩) | h)
          · exact .inl h
          · exact .inr ⟨p, h1, h2, h3, by omega, h5⟩
          · exact .inr ⟨x0 + n, by omega, by omega, by omega, by omega, by simpa using hb, h⟩
        · rintro (h | ⟨p, h1, h2, h3, h4, h5, h6⟩)
          · exact .inl (.inl h)
          · by_cases hp : p = x0 + n
            · subst hp; exact .inr h6
            · exact .inl (.inr ⟨p, h1, h2, h3, by omega, h5, h6⟩)
    · rename_i hc
      constructor
      · intro p q
        rw [hg]
        by_cases hpq : q = y ∧ q < 32 ∧ p < 64 ∧ p = x0 + n
        · obtain ⟨rfl, h2, h3, rfl⟩ := hpq
          have : row.getLsbD (7 - n) = false := by
            by_contra hne
            exact hc ⟨by omega, by omega, by simpa using hne⟩
          simp [this]
        · have : (q = y ∧ q < 32 ∧ p < 64 ∧ x0 ≤ p ∧ p < x0 + (n + 1)) ↔
              (q = y ∧ q < 32 ∧ p < 64 ∧ x0 ≤ p ∧ p < x0 + n) := by omega
          simp only [this]
      · rw [hh]
        constructor
        · rintro (h | ⟨p, h1, h2, h3, h4, h5⟩)
          · exact .inl h
          · exact .inr ⟨p, h1, h2, h3, by omega, h5⟩
        · rintro (h | ⟨p, h1, h2, h3, h4, h5, h6⟩)
          · exact .inl h
          · by_cases hp : p = x0 + n
            · subst hp
              exact absurd ⟨by omega, by omega, by simpa using h5⟩ hc
            · exact .inr ⟨p, h1, h2, h3, by omega, h5, h6⟩

/-- What drawing a sprite does (R131, R134, R135): every cell of the screen is XORed with the sprite bit that falls on it,
and a collision is a cell that was on and is hit by a 1. -/
theorem Canvas.drawRows_spec (c : Canvas) (x0 y0 : Nat) (rows : List Byte) :
    (∀ p q, (c.drawRows x0 y0 rows).grid.cell p q =
      ((c.grid.cell p q) ^^ (decide (q < 32 ∧ p < 64) && spritePixel x0 y0 rows p q))) ∧
    ((c.drawRows x0 y0 rows).hit = true ↔ c.hit = true ∨
      ∃ p q, p < 64 ∧ q < 32 ∧ spritePixel x0 y0 rows p q = true ∧ c.grid.cell p q = true) := by
  induction rows generalizing c y0 with
  | nil => simp [Canvas.drawRows, spritePixel]
  | cons row rows ih =>
    obtain ⟨hg, hh⟩ := ih (c.drawRow x0 y0 row) (y0 + 1)
    obtain ⟨rg, rh⟩ := Canvas.foldl_plot c x0 y0 row 8 (Nat.le_refl 8)
    change (∀ p q, (c.drawRow x0 y0 row).grid.cell p q = _) at rg
    change ((c.drawRow x0 y0 row).hit = true ↔ _) at rh
    have split_pixel : ∀ p q, spritePixel x0 y0 (row :: rows) p q =
        if q = y0 then decide (x0 ≤ p ∧ p < x0 + 8) && row.getLsbD (7 - (p - x0)) else spritePixel x0 (y0 + 1) rows p q := by
      intro p q
      unfold spritePixel
      by_cases hq : q = y0
      · subst hq; simp
      · simp only [hq, if_false]
        by_cases hlt : y0 ≤ q
        · have h1 : q - y0 = (q - (y0 + 1)) + 1 := by omega
          have h2 : y0 + 1 ≤ q := by omega
          rw [h1]; simp [hlt, h2]
        · have h2 : ¬ y0 + 1 ≤ q := by omega
          simp [hlt, h2]
    have above : ∀ p, spritePixel x0 (y0 + 1) rows p y0 = false := by
      intro p; simp [spritePixel]
    simp only [Canvas.drawRows]
    constructor
    · intro p q
      rw [hg, rg, split_pixel]
      by_cases hq : q = y0
      · subst hq
        by_cases h : q < 32 ∧ p < 64
        · simp [above, h]
        · have h2 : decide (q = q ∧ q < 32 ∧ p < 64 ∧ x0 ≤ p ∧ p < x0 + 8) = false := decide_eq_false (by omega)
          rw [h2]; simp [h]
      · simp [hq]
    · rw [hh, rh]
      constructor
      · rintro ((h | ⟨p, h1, h2, h3, h4, h5, h6⟩) | ⟨p, q, h1, h2, h3, h4⟩)
        · exact .inl h
        · exact .inr ⟨p, y0, h2, h1, by simp [split_pixel, h3, h4, h5], h6⟩
        · have hq : q ≠ y0 := by rintro rfl; simp [above] at h3
          refine .inr ⟨p, q, h1, h2, by simpa [split_pixel, hq] using h3, ?_⟩
          rw [rg] at h4; simpa [hq] using h4
      · rintro (h | ⟨p, q, h1, h2, h3, h4⟩)
        · exact .inl (.inl h)
        · by_cases hq : q = y0
          · subst hq
            simp only [split_pixel, if_true, Bool.and_eq_true, decide_eq_true_eq] at h3
            exact .inl (.inr ⟨p, h2, h1, h3.1.1, h3.1.2, h3.2, h4⟩)
          · refine .inr ⟨p, q, h1, h2, by simpa [split_pixel, hq] using h3, ?_⟩
            rw [rg]; simpa [hq] using h4

theorem State.length_spriteRows (s : State) (a n : Nat) : (s.spriteRows a n).length = n := by simp [State.spriteRows]

/-- Row `r` of a sprite is the byte at `a + r` (R133). -/
theorem State.getD_spriteRows (s : State) (a n r : Nat) :
    (s.spriteRows a n).getD r 0 = if r < n then s.byteAt (a + r) else 0 := by
  by_cases h : r < n <;> simp [State.spriteRows, h]

/-- The sprite bits of the claims are the pixels of the drawn rows (R132, R133). -/
theorem spriteBit_eq (s : State) (x y : RegIdx) (n p q : Nat) :
    spriteBit s x y n p q = spritePixel (originX (s.reg x)) (originY (s.reg y)) (s.spriteRows s.base n) p q := by
  unfold spriteBit spritePixel
  simp only [originX, originY, displayWidth, displayHeight, State.getD_spriteRows, State.base]
  by_cases h : (s.reg x).toNat % 64 ≤ p ∧ p < (s.reg x).toNat % 64 + 8 ∧ (s.reg y).toNat % 32 ≤ q ∧
      q < (s.reg y).toNat % 32 + n
  · have : q - (s.reg y).toNat % 32 < n := by omega
    simp [h, this]
  · rw [decide_eq_false h, Bool.false_and, eq_comm, Bool.and_eq_false_iff]
    by_cases h' : q - (s.reg y).toNat % 32 < n
    · exact .inl (decide_eq_false_iff_not.mpr (by omega))
    · simp [h']

/-- DXYN with its rows in range (R131). -/
theorem execDrw_eq (s : State) (x y : RegIdx) {n : Nat} (h : n = 0 ∨ s.base + n ≤ memSize) :
    execDrw x y n s = .next
      (let c := Canvas.drawRows { grid := s.disp, hit := false } (originX (s.reg x)) (originY (s.reg y)) (s.spriteRows s.base n)
       (s.setDisp c.grid).setFlag c.hit) := by
  simp [execDrw, checkLoad_eq_none.mpr h]

end Sys2Proof.Machine
end

