-- ==== Sys2Proof/Laws/Registers.lean ====
section
/-! SUPPORT. Reading a register after a write: one lemma per operation over `V`. -/

namespace Sys2Proof.Machine

theorem State.reg_setReg (s : State) (x r : RegIdx) (b : Byte) :
    (s.setReg x b).reg r = if r = x then b else s.reg r := by
  simp only [State.reg, State.setReg_v, Vector.getElem_set]
  by_cases h : r = x
  · simp [h]
  · have : x.val ≠ r.val := fun e => h (Fin.ext e.symm)
    simp [h, this]

@[simp] theorem State.reg_setReg_same (s : State) (x : RegIdx) (b : Byte) : (s.setReg x b).reg x = b := by
  simp [State.reg_setReg]

theorem State.reg_setReg_ne (s : State) {x r : RegIdx} (b : Byte) (h : r ≠ x) : (s.setReg x b).reg r = s.reg r := by
  simp [State.reg_setReg, h]

@[simp] theorem State.reg_setFlag_vf (s : State) (f : Bool) : (s.setFlag f).reg vf = flagByte f := by
  simp [State.setFlag]

theorem State.reg_setFlag (s : State) (r : RegIdx) (f : Bool) :
    (s.setFlag f).reg r = if r = vf then flagByte f else s.reg r := State.reg_setReg s vf r _

/-- R8, R112: the flag is what remains when the destination is `VF`. -/
theorem State.reg_setRegFlag (s : State) (x r : RegIdx) (b : Byte) (f : Bool) :
    (s.setRegFlag x b f).reg r = if r = vf then flagByte f else if r = x then b else s.reg r := by
  simp [State.setRegFlag, State.reg_setFlag, State.reg_setReg]

/-- FX65's block: the first `n` registers come from memory, the others stay (R126). -/
theorem State.getElem_loadBlock (s : State) (a n k : Nat) (hk : k < 16) :
    (s.loadBlock a n)[k] = if k < n then s.byteAt (a + k) else s.v[k] := by
  induction n with
  | zero => simp [State.loadBlock]
  | succ n ih =>
    simp only [State.loadBlock, Vector.getElem_setIfInBounds, ih]
    by_cases h : n = k
    · simp [h]
    · have : k < n + 1 ↔ k < n := by omega
      simp [h, this]

theorem State.reg_setRegs_loadBlock (s : State) (a n : Nat) (r : RegIdx) :
    (s.setRegs (s.loadBlock a n)).reg r = if r.val < n then s.byteAt (a + r.val) else s.reg r :=
  State.getElem_loadBlock s a n r.val r.isLt

theorem State.length_block (s : State) (x : RegIdx) : (s.block x).length = x.val + 1 := by
  have := x.isLt
  simp [State.block]

/-- FX55's block holds `V[k]` at place `k` (R125). -/
theorem State.getElem?_block (s : State) (x k : RegIdx) (h : k ≤ x) : (s.block x)[k.val]? = some (s.reg k) := by
  have : k.val < x.val + 1 := by have := Fin.le_def.mp h; omega
  simp [State.block, State.reg, this]

/-- The key of a register value in range is the sample's flag (R33). -/
theorem State.keyDown_eq (s : State) (k : Fin 16) : s.keyDown k.val = s.input.key[k.val] := by simp [State.keyDown]

theorem State.anyKey_iff (s : State) : s.anyKey = true ↔ ∃ k : Fin 16, s.input.key[k.val] = true := by
  simp only [State.anyKey, List.any_eq_true, id, exists_eq_right]
  refine ⟨fun h => ?_, fun ⟨k, hk⟩ => List.mem_iff_getElem.mpr ⟨k.val, by simp, by simpa using hk⟩⟩
  obtain ⟨k, hk, e⟩ := List.mem_iff_getElem.mp h
  simp at hk e
  exact ⟨⟨k, hk⟩, e⟩

end Sys2Proof.Machine
end

