-- ==== Sys2Proof/Laws/Steps.lean ====
section
/-! SUPPORT. What a step can do, said once. -/

namespace Sys2Proof.Machine

@[simp] theorem State.endStep_v (s : State) : s.endStep.v = s.v := rfl
@[simp] theorem State.endStep_i (s : State) : s.endStep.i = s.i := rfl
@[simp] theorem State.endStep_pc (s : State) : s.endStep.pc = s.pc := rfl
@[simp] theorem State.endStep_stack (s : State) : s.endStep.stack = s.stack := rfl
@[simp] theorem State.endStep_mem (s : State) : s.endStep.mem = s.mem := rfl
@[simp] theorem State.endStep_disp (s : State) : s.endStep.disp = s.disp := rfl
@[simp] theorem State.endStep_dt (s : State) : s.endStep.dt = tick s.dt := rfl
@[simp] theorem State.endStep_st (s : State) : s.endStep.st = tick s.st := rfl
@[simp] theorem State.endStep_faultRec (s : State) : s.endStep.faultRec = s.faultRec := rfl
@[simp] theorem State.endStep_params (s : State) : s.endStep.params = s.params := rfl
@[simp] theorem State.endStep_inputs (s : State) : s.endStep.inputs = s.inputs.tail := rfl
@[simp] theorem State.endStep_stepNo (s : State) : s.endStep.stepNo = s.stepNo + 1 := rfl
@[simp] theorem State.endStep_reg (s : State) (r : RegIdx) : s.endStep.reg r = s.reg r := rfl
@[simp] theorem State.endStep_byteAt (s : State) (a : Nat) : s.endStep.byteAt a = s.byteAt a := rfl
@[simp] theorem State.endStep_halted (s : State) : s.endStep.halted = s.halted := rfl

/-- The tick floors at 0 (R86). -/
theorem tick_toNat (d : Byte) : (tick d).toNat = d.toNat - 1 := by
  unfold tick
  split
  · rename_i h; subst h; rfl
  · rename_i h
    have h1 : d.toNat ≠ 0 := fun e => h (BitVec.eq_of_toNat_eq (by simpa using e))
    have := d.isLt
    rw [BitVec.toNat_sub]; simp; omega

theorem finishStep_eq_next {r : Result} {t : State} :
    finishStep r = .next t ↔ ∃ u, r = .next u ∧ t = if u.halted then u else u.endStep := by
  cases r with
  | next u =>
    constructor
    · intro h
      injection h with h
      exact ⟨u, rfl, h.symm⟩
    · rintro ⟨u', h, rfl⟩
      cases h; rfl
  | fault r => cases r
  | refused r => simp [finishStep]

theorem State.fetch_eq_none {s : State} : s.fetch = none ↔ 0xFFE < s.pc.toNat := by
  unfold State.fetch; split <;> simp_all

theorem State.fetch_eq_some {s : State} {op : Word} : s.fetch = some op ↔ s.pc.toNat ≤ 0xFFE ∧ s.wordAt s.pc.toNat = op := by
  unfold State.fetch; split <;> simp <;> omega

/-- Every meaning answers a next state: nothing of this machine stops outside its fault latch (R88, R153). -/
theorem exec_next (i : Instr) (s : State) : ∃ u, exec i s = .next u := by
  cases i
  case ret =>
    simp only [exec, execRet]
    split <;> exact ⟨_, rfl⟩
  all_goals exact ⟨_, rfl⟩

/-- What a step can do (R80, R81, R85, R87): nothing when halted, a fetch fault, a body with its fault or its tick, or the
no-op of an undefined opcode with its tick. -/
theorem step_cases {s t : State} (h : step s = .next t) :
    (s.halted = true ∧ t = s) ∨
    (s.halted = false ∧ 0xFFE < s.pc.toNat ∧ t = s.raiseFetchFault) ∨
    (s.halted = false ∧ s.pc.toNat ≤ 0xFFE ∧ ∃ i u, decodeWord s.params.alias59 (s.wordAt s.pc.toNat) = .ok i ∧
      exec i s.advance = .next u ∧ t = if u.halted then u else u.endStep) ∨
    (s.halted = false ∧ s.pc.toNat ≤ 0xFFE ∧ (∃ e, decodeWord s.params.alias59 (s.wordAt s.pc.toNat) = .error e) ∧
      t = s.advance.endStep) := by
  unfold step runStep at h
  split at h
  · rename_i hh
    cases h; exact .inl ⟨hh, rfl⟩
  · rename_i hh
    have hh : s.halted = false := by simpa using hh
    split at h
    · rename_i hf
      cases h; exact .inr (.inl ⟨hh, State.fetch_eq_none.mp hf, rfl⟩)
    · rename_i op hf
      obtain ⟨hpc, rfl⟩ := State.fetch_eq_some.mp hf
      unfold runOpcode at h
      split at h
      · rename_i i hd
        obtain ⟨u, hu, rfl⟩ := finishStep_eq_next.mp h
        exact .inr (.inr (.inl ⟨hh, hpc, i, u, hd, hu, rfl⟩))
      · rename_i e hd
        obtain ⟨u, hu, rfl⟩ := finishStep_eq_next.mp h
        cases hu
        have : s.advance.halted = false := hh
        exact .inr (.inr (.inr ⟨hh, hpc, ⟨e, hd⟩, by simp [this]⟩))

/-- An invariant that every step keeps holds at the end of every run from a state that has it. -/
theorem run_keeps {P : State → Prop} (hP : ∀ s t, P s → step s = .next t → P t) {k : Nat} {s t : State} (hs : P s)
    (h : Host.Core.run { State := State, Fault := Fault, Refusal := Refusal, step := step, reset := State.reset } k s = .next t) :
    P t := by
  induction k generalizing s with
  | zero => cases h; exact hs
  | succ k ih =>
    simp only [Host.Core.run] at h
    split at h
    · rename_i s' hs'
      exact ih (hP s s' hs hs') h
    · cases h
    · cases h

/-! The step of a core that runs an instruction. -/

theorem runs_iff {s : State} {i : Instr} :
    Runs s i ↔ s.halted = false ∧ s.pc.toNat ≤ 0xFFE ∧ decodeWord s.params.alias59 (s.wordAt s.pc.toNat) = .ok i := by
  unfold Runs decode State.wordAt
  refine and_congr_right fun _ => and_congr_right fun _ => ?_
  simp only
  split <;> rename_i h <;> simp [h]

theorem step_of_runs {s : State} {i : Instr} (h : Runs s i) : step s = finishStep (exec i s.advance) := by
  obtain ⟨h1, h2, h3⟩ := runs_iff.mp h
  simp [step, runStep, h1, State.fetch_eq_some.mpr ⟨h2, rfl⟩, runOpcode, h3]

/-- A body that does not fault is followed by the tick (R86). -/
theorem step_of_exec {s u : State} {i : Instr} (h : Runs s i) (hu : exec i s.advance = .next u) (hf : u.halted = false) :
    step s = .next u.endStep := by
  rw [step_of_runs h, hu]; simp [finishStep, hf]

/-- A body that faults ends the step (R85): the record holds the step's own `PC` and opcode. -/
theorem step_of_fault {s : State} {i : Instr} {c : Cause} {n : Nat} (h : Runs s i)
    (hu : exec i s.advance = .next (s.advance.raiseFault c n)) :
    step s = .next (s.latchFault c s.pc (s.wordAt s.pc.toNat) n) := by
  rw [step_of_runs h, hu, State.raiseFault_advance]; simp [finishStep]

end Sys2Proof.Machine
end

