-- ==== Sys2Proof/Laws/Frames.lean ====
section
/-! SUPPORT. Frames: how they combine, and the frame of each shared operation, said once. -/

namespace Sys2Proof.Machine

theorem Part.kept_refl (p : Part) (s : State) : p.kept s s := by
  cases p <;> simp [Part.kept]

theorem Part.kept_trans {p : Part} {s t u : State} (h : p.kept s t) (k : p.kept t u) : p.kept s u := by
  cases p <;> simp only [Part.kept] at h k ⊢
  case regs => exact fun r => (k r).trans (h r)
  case bytes => exact fun a => (k a).trans (h a)
  case input => exact ⟨k.1.trans h.1, k.2.trans h.2⟩
  all_goals exact k.trans h

theorem KeepsAllBut.refl (ps : List Part) (s : State) : KeepsAllBut ps s s := fun p _ => p.kept_refl s

theorem KeepsAllBut.mono {ps qs : List Part} {s t : State} (h : KeepsAllBut ps s t) (hs : ps ⊆ qs) : KeepsAllBut qs s t :=
  fun p hp => h p fun hq => hp (hs hq)

/-- Two transitions in a row keep what both keep. -/
theorem KeepsAllBut.trans {ps : List Part} {s t u : State} (h : KeepsAllBut ps s t) (k : KeepsAllBut ps t u) :
    KeepsAllBut ps s u := fun p hp => Part.kept_trans (h p hp) (k p hp)

/-! The updates. -/

theorem State.setPc_keeps (s : State) (w : Word) : KeepsAllBut [.pc] s (s.setPc w) := by
  intro p hp; cases p <;> simp at hp <;> simp [Part.kept]

theorem State.advance_keeps (s : State) : KeepsAllBut [.pc] s s.advance := s.setPc_keeps _

theorem State.setI_keeps (s : State) (w : Word) : KeepsAllBut [.index] s (s.setI w) := by
  intro p hp; cases p <;> simp at hp <;> simp [Part.kept]

theorem State.setDisp_keeps (s : State) (g : Grid) : KeepsAllBut [.display] s (s.setDisp g) := by
  intro p hp; cases p <;> simp at hp <;> simp [Part.kept]

theorem State.setDt_keeps (s : State) (b : Byte) : KeepsAllBut [.delay] s (s.setDt b) := by
  intro p hp; cases p <;> simp at hp <;> simp [Part.kept]

theorem State.setSt_keeps (s : State) (b : Byte) : KeepsAllBut [.sound] s (s.setSt b) := by
  intro p hp; cases p <;> simp at hp <;> simp [Part.kept]

theorem State.setStack_keeps (s : State) (l : List Word) : KeepsAllBut [.stack] s (s.setStack l) := by
  intro p hp; cases p <;> simp at hp <;> simp [Part.kept]

theorem State.setRegs_keeps (s : State) (v : Vector Byte 16) : KeepsAllBut [.regs] s (s.setRegs v) := by
  intro p hp; cases p <;> simp at hp <;> simp [Part.kept]

theorem State.setReg_keeps (s : State) (x : RegIdx) (b : Byte) : KeepsAllBut [.regs] s (s.setReg x b) := by
  intro p hp; cases p <;> simp at hp <;> simp [Part.kept]

theorem State.storeBytes_keeps (s : State) (a : Nat) (bs : List Byte) : KeepsAllBut [.bytes] s (s.storeBytes a bs) := by
  intro p hp; cases p <;> simp at hp <;> simp [Part.kept, State.storeBytes]

/-- The end of a step touches the timers and the model's own inputs only (R86). -/
theorem State.endStep_keeps (s : State) : KeepsAllBut [.delay, .sound, .input] s s.endStep := by
  intro p hp; cases p <;> simp at hp <;> simp [Part.kept]

theorem State.endStep_ticks (s : State) : TimersTicked s s.endStep := by simp [TimersTicked, tick_toNat]

/-! The shapes of results. -/

theorem State.setReg_writes (s : State) (x : RegIdx) (b : Byte) : WritesReg x b s (s.setReg x b) :=
  ⟨s.reg_setReg_same x b, fun _ hr => s.reg_setReg_ne b (by simpa using hr), s.setReg_keeps x b⟩

theorem State.setFlag_keeps (s : State) (f : Bool) : KeepsAllBut [.regs] s (s.setFlag f) := s.setReg_keeps vf _

theorem State.setFlag_keepsRegs (s : State) (f : Bool) : KeepsRegsBut [vf] s (s.setFlag f) :=
  fun _ hr => s.reg_setReg_ne _ (by simpa using hr)

/-- The result and then the flag, from what the two are (R8, R112). -/
theorem State.setRegFlag_writes (s : State) (x : RegIdx) {b : Byte} {f : Bool} {r : Nat} {c : Prop} (hb : b.toNat = r)
    (hf : f = true ↔ c) : WritesRegThenFlag x r c s (s.setRegFlag x b f) := by
  refine ⟨fun hx => ?_, fun hc => ?_, fun hc => ?_, fun q hq => ?_, (s.setReg_keeps x b).trans (State.setFlag_keeps _ f)⟩
  · rw [State.reg_setRegFlag]; simp [hx, hb]
  · rw [State.reg_setRegFlag]; simp [hf.mpr hc, flagByte]
  · rw [State.reg_setRegFlag, Bool.eq_false_iff.mpr fun h => hc (hf.mp h)]; simp [flagByte]
  · rw [State.reg_setRegFlag]; simp only [List.mem_cons, List.not_mem_nil, or_false, not_or] at hq; simp [hq.1, hq.2]

/-- A skip, from when it is taken (R98). -/
theorem State.skipIf_skips (s : State) {f : Bool} {c : Prop} (hf : f = true ↔ c) : SkipsWhen c s (s.skipIf f) := by
  refine ⟨fun hc => by simp [State.skipIf, hf.mpr hc], fun hc => ?_, s.setPc_keeps _⟩
  rw [State.skipIf, Bool.eq_false_iff.mpr fun h => hc (hf.mp h)]; simp

end Sys2Proof.Machine
end

