-- ==== Sys2Proof/Laws/Memory.lean ====
section
/-! SUPPORT. `mem`: read after write, and that every operation keeps the canonical form. -/

namespace Sys2Proof.Machine

open Memory

theorem Memory.lookup_of_forall_lt {a : Nat} {m : Memory} (h : ∀ c ∈ m, a < c.1) : m.lookup a = none := by
  induction m with
  | nil => rfl
  | cons c m ih =>
    obtain ⟨k, b⟩ := c
    have hk : a < k := h (k, b) List.mem_cons_self
    have : k ≠ a := by omega
    simp [Memory.lookup, this, ih (fun c hc => h c (List.mem_cons_of_mem _ hc))]

/-- A listed byte is looked up, and only a listed one. -/
theorem Memory.lookup_eq_some {m : Memory} (hs : m.Pairwise (fun c d => c.1 < d.1)) {a : Nat} {b : Byte} :
    m.lookup a = some b ↔ (a, b) ∈ m := by
  induction m with
  | nil => simp [Memory.lookup]
  | cons c m ih =>
    obtain ⟨k, v⟩ := c
    rw [List.pairwise_cons] at hs
    by_cases hk : k = a
    · subst hk
      have : ∀ b, (k, b) ∉ m := fun b hb => absurd (hs.1 _ hb) (by simp)
      simp [Memory.lookup, this, eq_comm]
    · simp [Memory.lookup, hk, ih hs.2, Ne.symm hk]

/-- What `put` leaves listed at each address of a canonical list. -/
theorem Memory.lookup_put {dflt : Byte} {a : Nat} {b : Byte} {m : Memory} (hs : m.Pairwise (fun c d => c.1 < d.1)) (k : Nat) :
    (Memory.put dflt a b m).lookup k = if k = a then (if b = dflt then none else some b) else m.lookup k := by
  induction m with
  | nil =>
    by_cases hk : k = a
    · subst hk; by_cases hb : b = dflt <;> simp [Memory.put, Memory.lookup, hb]
    · have : a ≠ k := Ne.symm hk
      by_cases hb : b = dflt <;> simp [Memory.put, Memory.lookup, hb, hk, this]
  | cons c m ih =>
    obtain ⟨p, v⟩ := c
    rw [List.pairwise_cons] at hs
    rcases Nat.lt_trichotomy a p with h | h | h
    · have hnone : Memory.lookup a ((p, v) :: m) = none :=
        Memory.lookup_of_forall_lt fun c hc => by
          rcases List.mem_cons.mp hc with rfl | hc
          · exact h
          · exact Nat.lt_trans h (hs.1 c hc)
      simp only [Memory.put, if_pos h]
      by_cases hb : b = dflt
      · by_cases hk : k = a
        · subst hk; simp [hb, hnone]
        · simp [hb, hk]
      · by_cases hk : k = a
        · subst hk; simp [hb, Memory.lookup]
        · have : a ≠ k := Ne.symm hk
          simp [hb, hk, Memory.lookup, this]
    · subst h
      have hnone : Memory.lookup a m = none := Memory.lookup_of_forall_lt hs.1
      simp only [Memory.put, if_neg (Nat.lt_irrefl a), if_true]
      by_cases hk : k = a
      · subst hk; by_cases hb : b = dflt <;> simp [hb, hnone, Memory.lookup]
      · have : a ≠ k := Ne.symm hk
        by_cases hb : b = dflt <;> simp [hb, hk, Memory.lookup, this]
    · have h1 : ¬ a < p := by omega
      have h2 : a ≠ p := by omega
      simp only [Memory.put, if_neg h1, if_neg h2, Memory.lookup, ih hs.2]
      by_cases hp : p = k
      · have : k ≠ a := by omega
        simp [hp, this]
      · simp [hp]

theorem Memory.mem_put {dflt : Byte} {a : Nat} {b : Byte} {m : Memory} {c : Host.Cell} (h : c ∈ Memory.put dflt a b m) :
    (c = (a, b) ∧ b ≠ dflt) ∨ c ∈ m := by
  induction m with
  | nil =>
    by_cases hb : b = dflt <;> simp [Memory.put, hb] at h
    exact .inl ⟨h, hb⟩
  | cons d m ih =>
    obtain ⟨p, v⟩ := d
    simp only [Memory.put] at h
    split at h
    · split at h
      · exact .inr h
      · rename_i hb
        rcases List.mem_cons.mp h with h | h
        · exact .inl ⟨h, hb⟩
        · exact .inr h
    · split at h
      · split at h
        · exact .inr (List.mem_cons_of_mem _ h)
        · rename_i hb
          rcases List.mem_cons.mp h with h | h
          · exact .inl ⟨h, hb⟩
          · exact .inr (List.mem_cons_of_mem _ h)
      · rcases List.mem_cons.mp h with h | h
        · exact .inr (h ▸ List.mem_cons_self)
        · exact (ih h).imp_right (List.mem_cons_of_mem _)

theorem Memory.pairwise_put {dflt : Byte} {a : Nat} {b : Byte} {m : Memory} (hs : m.Pairwise (fun c d => c.1 < d.1)) :
    (Memory.put dflt a b m).Pairwise (fun c d => c.1 < d.1) := by
  induction m with
  | nil => by_cases hb : b = dflt <;> simp [Memory.put, hb]
  | cons d m ih =>
    obtain ⟨p, v⟩ := d
    have hs' := List.pairwise_cons.mp hs
    simp only [Memory.put]
    split
    · rename_i hap
      split
      · exact hs
      · refine List.pairwise_cons.mpr ⟨fun c hc => ?_, hs⟩
        rcases List.mem_cons.mp hc with rfl | hc
        · exact hap
        · exact Nat.lt_trans hap (hs'.1 c hc)
    · split
      · rename_i _ hap
        subst hap
        split
        · exact hs'.2
        · exact List.pairwise_cons.mpr ⟨hs'.1, hs'.2⟩
      · refine List.pairwise_cons.mpr ⟨fun c hc => ?_, ih hs'.2⟩
        rcases Memory.mem_put hc with ⟨rfl, _⟩ | hc
        · simp only; omega
        · exact hs'.1 c hc

theorem Memory.wf_nil (rom : GlyphRom) : Memory.wf rom [] := by simp [Memory.wf]

/-- Reset's memory has the canonical form. -/
theorem State.reset_mem_wf : State.reset.mem.wf State.reset.params.glyphRom := Memory.wf_nil _

/-- A write at an existing address keeps the canonical form. -/
theorem Memory.wf_write {rom : GlyphRom} {m : Memory} (h : m.wf rom) {a : Nat} (ha : a < memSize) (b : Byte) :
    (m.write rom a b).wf rom := by
  refine ⟨Memory.pairwise_put h.1, fun c hc => ?_⟩
  rcases Memory.mem_put hc with ⟨rfl, hb⟩ | hc
  · exact ⟨ha, hb⟩
  · exact h.2 c hc

/-- Read after write (R42, R43): the byte written at its address, every other byte as before. -/
theorem Memory.read_write {rom : GlyphRom} {m : Memory} (hs : m.Pairwise (fun c d => c.1 < d.1)) (a : Nat) (b : Byte) (k : Nat) :
    (m.write rom a b).read rom k = if k = a then b else m.read rom k := by
  simp only [Memory.read, Memory.write, Memory.lookup_put hs]
  by_cases hk : k = a
  · subst hk
    by_cases hb : b = resetByte rom k <;> simp [hb]
  · simp [hk]

theorem Memory.pairwise_writeBytes {rom : GlyphRom} {m : Memory} (hs : m.Pairwise (fun c d => c.1 < d.1)) (a : Nat)
    (bs : List Byte) : (m.writeBytes rom a bs).Pairwise (fun c d => c.1 < d.1) := by
  induction bs generalizing m a with
  | nil => exact hs
  | cons b bs ih => exact ih (Memory.pairwise_put hs) (a + 1)

/-- Writing bytes inside the address space keeps the canonical form. -/
theorem Memory.wf_writeBytes {rom : GlyphRom} {m : Memory} (h : m.wf rom) {a : Nat} {bs : List Byte}
    (ha : a + bs.length ≤ memSize) : (m.writeBytes rom a bs).wf rom := by
  induction bs generalizing m a with
  | nil => exact h
  | cons b bs ih =>
    simp only [List.length_cons] at ha
    exact ih (Memory.wf_write h (by omega) b) (by omega)

/-- Reading after writing bytes at `a` (R45): byte `k − a` of them inside, every other byte as before. -/
theorem Memory.read_writeBytes {rom : GlyphRom} {m : Memory} (hs : m.Pairwise (fun c d => c.1 < d.1)) (a : Nat)
    (bs : List Byte) (k : Nat) :
    (m.writeBytes rom a bs).read rom k = if a ≤ k then bs.getD (k - a) (m.read rom k) else m.read rom k := by
  induction bs generalizing m a with
  | nil => simp [Memory.writeBytes]
  | cons b bs ih =>
    rw [Memory.writeBytes, ih (m := m.write rom a b) (Memory.pairwise_put hs), Memory.read_write hs]
    rcases Nat.lt_trichotomy k a with h | h | h
    · have h1 : ¬ a ≤ k := by omega
      have h2 : ¬ a + 1 ≤ k := by omega
      have h3 : k ≠ a := by omega
      simp [h1, h2, h3]
    · subst h; simp
    · have h1 : a ≤ k := by omega
      have h2 : a + 1 ≤ k := by omega
      have h3 : k ≠ a := by omega
      have h4 : k - a = (k - (a + 1)) + 1 := by omega
      simp [h1, h2, h3, h4]

/-- The cells after writing bytes are those listed before and those written. -/
theorem Memory.mem_writeBytes {rom : GlyphRom} {m : Memory} {a : Nat} {bs : List Byte} {c : Host.Cell}
    (h : c ∈ m.writeBytes rom a bs) : c ∈ m ∨ (a ≤ c.1 ∧ c.1 < a + bs.length) := by
  induction bs generalizing m a with
  | nil => exact .inl h
  | cons b bs ih =>
    rcases ih h with h | h
    · rcases Memory.mem_put h with ⟨rfl, _⟩ | h
      · exact .inr ⟨Nat.le_refl _, by simp⟩
      · exact .inl h
    · exact .inr ⟨by omega, by simp only [List.length_cons]; omega⟩

/-- The bytes a state reads after storing `bs` at `a`. -/
theorem State.byteAt_storeBytes (s : State) (hs : s.mem.Pairwise (fun c d => c.1 < d.1)) (a : Nat) (bs : List Byte) (k : Nat) :
    (s.storeBytes a bs).byteAt k = if a ≤ k then bs.getD (k - a) (s.byteAt k) else s.byteAt k :=
  Memory.read_writeBytes hs a bs k

theorem State.byteAt_storeBytes_outside (s : State) (hs : s.mem.Pairwise (fun c d => c.1 < d.1)) (a : Nat) (bs : List Byte) (k : Nat)
    (h : k < a ∨ a + bs.length ≤ k) : (s.storeBytes a bs).byteAt k = s.byteAt k := by
  rw [State.byteAt_storeBytes s hs]
  split
  · rw [List.getD_eq_default _ _ (by omega)]
  · rfl

/-- The reset contents of a glyph's row (R23). -/
theorem resetByte_glyph (rom : GlyphRom) (d : Fin 16) (j : Fin 5) :
    resetByte rom (0x50 + 5 * d.val + j.val) = rom[d.val][j.val] := by
  unfold resetByte
  rw [dif_pos (by simp only [glyphBase, glyphBytes]; omega)]
  simp only [glyphBase, glyphCharSize]
  have hd : (0x50 + 5 * d.val + j.val - 0x50) / 5 = d.val := by omega
  congr 1
  · simp only [hd]
  · omega

/-- The reset contents outside the glyph set (R22, D2). -/
theorem resetByte_outside (rom : GlyphRom) {a : Nat} (h : a < 0x50 ∨ 0xA0 ≤ a) : resetByte rom a = 0 := by
  rw [resetByte, dif_neg]; simp only [glyphBase, glyphBytes]; omega

end Sys2Proof.Machine
end

