-- ==== Sys2Proof/Laws/PerInstr.lean ====
section
/-! SUPPORT. Per instruction: the encoding lies in the instruction's row of the opcode table (spec/30_encoding.md R64). -/

namespace Sys2Proof.Laws.EncodeRow

/-- The opcode of an instruction matches its row: `encode i & mask = pattern`. -/
def Statement (i : Instr) : Prop := i.wellFormed = true → encode i &&& (rowOf i).mask = (rowOf i).pattern

theorem and_all4 (a : BitVec 4) : a &&& 0xF#4 = a := BitVec.and_allOnes
theorem and_all8 (a : BitVec 8) : a &&& 0xFF#8 = a := BitVec.and_allOnes

theorem and_formatNNN (f : BitVec 4) (nnn : Addr12) : formatNNN f nnn &&& 0xF000#16 = formatNNN f 0 := by
  have : (0xF000#16 : Word) = 0xF#4 ++ 0x000#12 := by decide
  rw [this, formatNNN, formatNNN, BitVec.and_append]; simp [and_all4]

theorem and_formatXNN (f : BitVec 4) (x : RegIdx) (nn : Byte) : formatXNN f x nn &&& 0xF000#16 = formatXNN f 0 0 := by
  have : (0xF000#16 : Word) = 0xF#4 ++ 0x0#4 ++ 0x00#8 := by decide
  rw [this, formatXNN, formatXNN, BitVec.and_append, BitVec.and_append]; simp [and_all4]

theorem and_formatX (f : BitVec 4) (x : RegIdx) (nn : Byte) : formatXNN f x nn &&& 0xF0FF#16 = formatXNN f 0 nn := by
  have : (0xF0FF#16 : Word) = 0xF#4 ++ 0x0#4 ++ 0xFF#8 := by decide
  rw [this, formatXNN, formatXNN, BitVec.and_append, BitVec.and_append]; simp [and_all4, and_all8]

theorem and_formatXY (f : BitVec 4) (x y : RegIdx) (n : BitVec 4) : formatXYN f x y n &&& 0xF00F#16 = formatXYN f 0 0 n := by
  have : (0xF00F#16 : Word) = 0xF#4 ++ 0x0#4 ++ 0x0#4 ++ 0xF#4 := by decide
  rw [this, formatXYN, formatXYN, BitVec.and_append, BitVec.and_append, BitVec.and_append]; simp [and_all4]

theorem and_formatXYN (f : BitVec 4) (x y : RegIdx) (n : BitVec 4) : formatXYN f x y n &&& 0xF000#16 = formatXYN f 0 0 0 := by
  have : (0xF000#16 : Word) = 0xF#4 ++ 0x0#4 ++ 0x0#4 ++ 0x0#4 := by decide
  rw [this, formatXYN, formatXYN, BitVec.and_append, BitVec.and_append, BitVec.and_append]; simp [and_all4]

theorem cls : Statement .cls := fun _ => by decide
theorem ret : Statement .ret := fun _ => by decide
theorem jp (nnn : Addr12) : Statement (.jp nnn) := fun _ => (and_formatNNN _ _).trans rfl
theorem call (nnn : Addr12) : Statement (.call nnn) := fun _ => (and_formatNNN _ _).trans rfl
theorem seImm (x : RegIdx) (nn : Byte) : Statement (.seImm x nn) := fun _ => (and_formatXNN _ _ _).trans rfl
theorem sneImm (x : RegIdx) (nn : Byte) : Statement (.sneImm x nn) := fun _ => (and_formatXNN _ _ _).trans rfl
theorem seReg (x y : RegIdx) : Statement (.seReg x y) := fun _ => (and_formatXY _ _ _ _).trans rfl
theorem ldImm (x : RegIdx) (nn : Byte) : Statement (.ldImm x nn) := fun _ => (and_formatXNN _ _ _).trans rfl
theorem addImm (x : RegIdx) (nn : Byte) : Statement (.addImm x nn) := fun _ => (and_formatXNN _ _ _).trans rfl
theorem ldReg (x y : RegIdx) : Statement (.ldReg x y) := fun _ => (and_formatXY _ _ _ _).trans rfl
theorem orReg (x y : RegIdx) : Statement (.orReg x y) := fun _ => (and_formatXY _ _ _ _).trans rfl
theorem andReg (x y : RegIdx) : Statement (.andReg x y) := fun _ => (and_formatXY _ _ _ _).trans rfl
theorem xorReg (x y : RegIdx) : Statement (.xorReg x y) := fun _ => (and_formatXY _ _ _ _).trans rfl
theorem addReg (x y : RegIdx) : Statement (.addReg x y) := fun _ => (and_formatXY _ _ _ _).trans rfl
theorem subReg (x y : RegIdx) : Statement (.subReg x y) := fun _ => (and_formatXY _ _ _ _).trans rfl
theorem shr (x y : RegIdx) : Statement (.shr x y) := fun _ => (and_formatXY _ _ _ _).trans rfl
theorem subnReg (x y : RegIdx) : Statement (.subnReg x y) := fun _ => (and_formatXY _ _ _ _).trans rfl
theorem shl (x y : RegIdx) : Statement (.shl x y) := fun _ => (and_formatXY _ _ _ _).trans rfl
theorem sneReg (x y : RegIdx) : Statement (.sneReg x y) := fun _ => (and_formatXY _ _ _ _).trans rfl
theorem ldI (nnn : Addr12) : Statement (.ldI nnn) := fun _ => (and_formatNNN _ _).trans rfl
theorem jpV0 (nnn : Addr12) : Statement (.jpV0 nnn) := fun _ => (and_formatNNN _ _).trans rfl
theorem rnd (x : RegIdx) (nn : Byte) : Statement (.rnd x nn) := fun _ => (and_formatXNN _ _ _).trans rfl
theorem drw (x y : RegIdx) (n : Nat) : Statement (.drw x y n) := fun _ => (and_formatXYN _ _ _ _).trans rfl
theorem skp (x : RegIdx) : Statement (.skp x) := fun _ => (and_formatX _ _ _).trans rfl
theorem sknp (x : RegIdx) : Statement (.sknp x) := fun _ => (and_formatX _ _ _).trans rfl
theorem ldVxDt (x : RegIdx) : Statement (.ldVxDt x) := fun _ => (and_formatX _ _ _).trans rfl
theorem ldVxK (x : RegIdx) : Statement (.ldVxK x) := fun _ => (and_formatX _ _ _).trans rfl
theorem ldDtVx (x : RegIdx) : Statement (.ldDtVx x) := fun _ => (and_formatX _ _ _).trans rfl
theorem ldStVx (x : RegIdx) : Statement (.ldStVx x) := fun _ => (and_formatX _ _ _).trans rfl
theorem addI (x : RegIdx) : Statement (.addI x) := fun _ => (and_formatX _ _ _).trans rfl
theorem ldF (x : RegIdx) : Statement (.ldF x) := fun _ => (and_formatX _ _ _).trans rfl
theorem ldB (x : RegIdx) : Statement (.ldB x) := fun _ => (and_formatX _ _ _).trans rfl
theorem ldMemVx (x : RegIdx) : Statement (.ldMemVx x) := fun _ => (and_formatX _ _ _).trans rfl
theorem ldVxMem (x : RegIdx) : Statement (.ldVxMem x) := fun _ => (and_formatX _ _ _).trans rfl

end Sys2Proof.Laws.EncodeRow
end

