-- ==== Sys2Proof/Machine/Assembler.lean ====
section
/-! DEFINITION. The assembler text of an instruction (spec/30_encoding.md R64's Assembler column, R71; D16). It has no semantic
content: nothing of the machine depends on it. -/

namespace Sys2Proof

/-- A hexadecimal digit. -/
def hexDigit (n : Nat) : String :=
  ["0", "1", "2", "3", "4", "5", "6", "7", "8", "9", "A", "B", "C", "D", "E", "F"].getD n "?"

/-- `V0` to `VF` (R71). -/
def regText (x : RegIdx) : String := "V" ++ hexDigit x.val

/-- An 8-bit number. -/
def byteText (b : Byte) : String := "0x" ++ hexDigit (b.toNat / 16) ++ hexDigit (b.toNat % 16)

/-- A 12-bit number. -/
def addrText (a : Addr12) : String :=
  "0x" ++ hexDigit (a.toNat / 256) ++ hexDigit (a.toNat / 16 % 16) ++ hexDigit (a.toNat % 16)

/-- Two operands, the destination first (R71). -/
def pairText (op a b : String) : String := op ++ " " ++ a ++ ", " ++ b

/-- The text of an instruction (R71). `SHR` and `SHL` show no `Y`, `LD Vx, K` names the unused `X`. -/
def Instr.text : Instr → String
  | .cls => "CLS"
  | .ret => "RET"
  | .jp nnn => "JP " ++ addrText nnn
  | .call nnn => "CALL " ++ addrText nnn
  | .seImm x nn => pairText "SE" (regText x) (byteText nn)
  | .sneImm x nn => pairText "SNE" (regText x) (byteText nn)
  | .seReg x y => pairText "SE" (regText x) (regText y)
  | .ldImm x nn => pairText "LD" (regText x) (byteText nn)
  | .addImm x nn => pairText "ADD" (regText x) (byteText nn)
  | .ldReg x y => pairText "LD" (regText x) (regText y)
  | .orReg x y => pairText "OR" (regText x) (regText y)
  | .andReg x y => pairText "AND" (regText x) (regText y)
  | .xorReg x y => pairText "XOR" (regText x) (regText y)
  | .addReg x y => pairText "ADD" (regText x) (regText y)
  | .subReg x y => pairText "SUB" (regText x) (regText y)
  | .shr x _ => "SHR " ++ regText x
  | .subnReg x y => pairText "SUBN" (regText x) (regText y)
  | .shl x _ => "SHL " ++ regText x
  | .sneReg x y => pairText "SNE" (regText x) (regText y)
  | .ldI nnn => pairText "LD" "I" (addrText nnn)
  | .jpV0 nnn => pairText "JP" "V0" (addrText nnn)
  | .rnd x nn => pairText "RND" (regText x) (byteText nn)
  | .drw x y n => pairText "DRW" (regText x) (regText y) ++ ", " ++ toString n
  | .skp x => "SKP " ++ regText x
  | .sknp x => "SKNP " ++ regText x
  | .ldVxDt x => pairText "LD" (regText x) "DT"
  | .ldVxK x => pairText "LD" (regText x) "K"
  | .ldDtVx x => pairText "LD" "DT" (regText x)
  | .ldStVx x => pairText "LD" "ST" (regText x)
  | .addI x => pairText "ADD" "I" (regText x)
  | .ldF x => pairText "LD" "F" (regText x)
  | .ldB x => pairText "LD" "B" (regText x)
  | .ldMemVx x => pairText "LD" "[I]" (regText x)
  | .ldVxMem x => pairText "LD" (regText x) "[I]"

end Sys2Proof
end

