-- ==== Sys2Proof/Tests/Slice0.lean ====
section
/-! SUPPORT. Tests: ill-formed terms, words written out from spec/30_encoding.md, one-step vectors of spec/95_test_vectors.md
(expected values are the spec's), and for every statement with hypotheses a state and operands that meet them. -/

namespace Sys2Proof.Tests

open Sys2Proof.Machine

/-! Helpers. -/

/-- The state after reset with some registers set. -/
def withRegs (l : List (RegIdx × Byte)) : State := l.foldl (fun s p => s.setReg p.1 p.2) State.reset

/-- The opcode at `PC`. -/
def place (op : Word) (s : State) : State := s.withFetchWord 16 op.toNat

/-- The state after one step. -/
def after (s : State) : State :=
  match step s with
  | .next t => t
  | .fault _ | .refused _ => s

/-- A sample: the pressed keys and the random byte. -/
def sample (keys : List Nat) (rnd : Byte) : Input := { key := Vector.ofFn fun k => keys.contains k.val, rnd := rnd }

/-- The state with one listed sample. -/
def withSample (keys : List Nat) (rnd : Byte) (s : State) : State := s.presentInputs [sample keys rnd]

/-- The record of a fault at `pc0`. -/
def faulted (cause : Cause) (pc0 op : Word) (info : BitVec 17) : FaultRecord :=
  { fault := true, fcause := cause, fpc := pc0, fop := op, finfo := info }

/-! Well-formedness: the one check. -/

theorem test_wf_refuses_sixteen_rows : (Instr.drw 0 1 16).wellFormed = false := by decide
theorem test_wf_admits_fifteen_rows : (Instr.drw 0 1 15).wellFormed = true := by decide

/-! Decoding: every constructor from a word written out nibble by nibble from R61 and R64. -/

theorem test_decode_family0 : decodeWord false 0b0000_0000_1110_0000 = .ok .cls ∧
    decodeWord false 0b0000_0000_1110_1110 = .ok .ret := by decide
theorem test_decode_jumps : decodeWord false 0b0001_0010_0011_0100 = .ok (.jp 0x234) ∧
    decodeWord false 0b0010_1010_1011_1100 = .ok (.call 0xABC) ∧
    decodeWord false 0b1011_0011_0000_0001 = .ok (.jpV0 0x301) := by decide
theorem test_decode_skips : decodeWord false 0b0011_0110_0001_0010 = .ok (.seImm 6 0x12) ∧
    decodeWord false 0b0100_1011_1110_0001 = .ok (.sneImm 11 0xE1) ∧
    decodeWord false 0b0101_0001_0010_0000 = .ok (.seReg 1 2) ∧
    decodeWord false 0b1001_0011_1100_0000 = .ok (.sneReg 3 12) := by decide
theorem test_decode_immediates : decodeWord false 0b0110_1010_0010_1100 = .ok (.ldImm 10 0x2C) ∧
    decodeWord false 0b0111_0101_1111_1110 = .ok (.addImm 5 0xFE) ∧
    decodeWord false 0b1100_0011_0000_1111 = .ok (.rnd 3 0x0F) := by decide
theorem test_decode_logic : decodeWord false 0b1000_0001_0010_0000 = .ok (.ldReg 1 2) ∧
    decodeWord false 0b1000_0011_0100_0001 = .ok (.orReg 3 4) ∧
    decodeWord false 0b1000_0101_0110_0010 = .ok (.andReg 5 6) ∧
    decodeWord false 0b1000_0111_1000_0011 = .ok (.xorReg 7 8) := by decide
theorem test_decode_arithmetic : decodeWord false 0b1000_1010_1011_0100 = .ok (.addReg 10 11) ∧
    decodeWord false 0b1000_1001_1010_0101 = .ok (.subReg 9 10) ∧
    decodeWord false 0b1000_0001_1100_0110 = .ok (.shr 1 12) ∧
    decodeWord false 0b1000_1101_1110_0111 = .ok (.subnReg 13 14) ∧
    decodeWord false 0b1000_1111_0000_1110 = .ok (.shl 15 0) := by decide
theorem test_decode_index_and_draw : decodeWord false 0b1010_0010_1111_0000 = .ok (.ldI 0x2F0) ∧
    decodeWord false 0b1101_0000_0001_1111 = .ok (.drw 0 1 15) := by decide
theorem test_decode_keys : decodeWord false 0b1110_0101_1001_1110 = .ok (.skp 5) ∧
    decodeWord false 0b1110_0110_1010_0001 = .ok (.sknp 6) ∧
    decodeWord false 0b1111_0111_0000_1010 = .ok (.ldVxK 7) := by decide
theorem test_decode_timers : decodeWord false 0b1111_0001_0000_0111 = .ok (.ldVxDt 1) ∧
    decodeWord false 0b1111_0010_0001_0101 = .ok (.ldDtVx 2) ∧
    decodeWord false 0b1111_0011_0001_1000 = .ok (.ldStVx 3) := by decide
theorem test_decode_memory : decodeWord false 0b1111_0100_0001_1110 = .ok (.addI 4) ∧
    decodeWord false 0b1111_0101_0010_1001 = .ok (.ldF 5) ∧
    decodeWord false 0b1111_0110_0011_0011 = .ok (.ldB 6) ∧
    decodeWord false 0b1111_0111_0101_0101 = .ok (.ldMemVx 7) ∧
    decodeWord false 0b1111_0011_0110_0101 = .ok (.ldVxMem 3) := by decide

/-- The neighbours that spec/95_test_vectors.md section 2.1 lists as undefined. -/
theorem test_decode_refuses : decodeWord false 0x0000 = .error (.undefinedOpcode 0x0000) ∧
    decodeWord false 0x00E1 = .error (.undefinedOpcode 0x00E1) ∧ decodeWord false 0x01E0 = .error (.undefinedOpcode 0x01E0) ∧
    decodeWord false 0x5121 = .error (.undefinedOpcode 0x5121) ∧ decodeWord false 0x8018 = .error (.undefinedOpcode 0x8018) ∧
    decodeWord false 0x801F = .error (.undefinedOpcode 0x801F) ∧ decodeWord false 0xE59F = .error (.undefinedOpcode 0xE59F) ∧
    decodeWord false 0xF375 = .error (.undefinedOpcode 0xF375) ∧ decodeWord false 0xFFFF = .error (.undefinedOpcode 0xFFFF) := by
  decide
theorem test_decode_alias : decodeWord true 0x5121 = .ok (.seReg 1 2) ∧ decodeWord true 0x9125 = .ok (.sneReg 1 2) := by decide
theorem test_decode_truncated : decode false [0x12] = .error .truncated := by decide
theorem test_encode_words : encode (.drw 0 1 15) = 0xD01F ∧ encode (.addReg 10 11) = 0x8AB4 ∧ encode (.ldVxMem 3) = 0xF365 := by
  decide
theorem test_decodeTableWord : decodeTableWord 16 0x1234 = some (.jp 0x234) ∧ decodeTableWord 16 0x00E1 = none := by decide

/-- Listings of spec/95_test_vectors.md section 3. -/
theorem test_text : (Instr.ldI 0x300).text = "LD I, 0x300" ∧ (Instr.addImm 0 0xFF).text = "ADD V0, 0xFF" ∧
    (Instr.ldVxMem 2).text = "LD V2, [I]" ∧ (Instr.drw 0 1 2).text = "DRW V0, V1, 2" := by decide

/-! The step (spec/95_test_vectors.md 2.1, 2.2). -/

theorem test_step_last_opcode : let t := after (place 0x6007 { State.reset with pc := 0xFFE })
    t.reg 0 = 0x07 ∧ t.pc = 0x1000 ∧ t.halted = false := by decide
theorem test_step_fetch_fault : let t := after { State.reset with pc := 0x1000, dt := 5 }
    t.faultRec = faulted .fetchRange 0x1000 0x0000 0x1000 ∧ t.pc = 0x1000 ∧ t.dt = 5 := by decide
theorem test_step_undefined : let t := after { State.reset with dt := 3, st := 1 }
    t.pc = 0x202 ∧ t.dt = 2 ∧ t.st = 0 ∧ t.halted = false := by decide
theorem test_step_halted : let t := after { State.reset with faultRec := faulted .fetchRange 0x200 0 0x200, dt := 5 }
    t.pc = 0x200 ∧ t.dt = 5 ∧ t.halted = true := by decide
theorem test_placed_word_runs : (after (after (place 0x12FE (after (place 0x00EE State.reset))))).pc = 0x300 := by decide

/-! Control flow (2.3). -/

theorem test_jp : (after (place 0x1FFF State.reset)).pc = 0x0FFF := by decide
theorem test_call : let t := after (place 0x2ABC { State.reset with pc := 0x234 })
    t.pc = 0x0ABC ∧ t.stack = [0x0236] := by decide
theorem test_call_overflow :
    let t := after (place 0x2ABC { State.reset with pc := 0x234, stack := List.replicate 16 0x300, dt := 5, st := 5 })
    t.faultRec = faulted .stackOverflow 0x234 0x2ABC 0x234 ∧ t.pc = 0x234 ∧ t.sp = 16 ∧ t.dt = 5 ∧ t.st = 5 := by decide
theorem test_ret : let t := after (place 0x00EE { State.reset with pc := 0x400, stack := [0x0236, 0x0206] })
    t.pc = 0x0236 ∧ t.stack = [0x0206] := by decide
theorem test_ret_underflow : let t := after (place 0x00EE State.reset)
    t.faultRec = faulted .stackUnderflow 0x200 0x00EE 0x200 ∧ t.pc = 0x200 := by decide
theorem test_jpV0 : (after (place 0xBFFF (withRegs [(0, 0xFF)]))).pc = 0x10FE := by decide
theorem test_jpV0_not_Vx : (after (place 0xB300 (withRegs [(3, 0x40)]))).pc = 0x0300 := by decide
theorem test_seImm : (after (place 0x3012 (withRegs [(0, 0x12)]))).pc = 0x204 ∧
    (after (place 0x3012 (withRegs [(0, 0x13)]))).pc = 0x202 := by decide
theorem test_sneImm : (after (place 0x4012 (withRegs [(0, 0x12)]))).pc = 0x202 ∧
    (after (place 0x4012 (withRegs [(0, 0x13)]))).pc = 0x204 := by decide
theorem test_seReg : (after (place 0x5120 (withRegs [(1, 9), (2, 9)]))).pc = 0x204 ∧
    (after (place 0x5120 (withRegs [(1, 9), (2, 8)]))).pc = 0x202 := by decide
theorem test_sneReg : (after (place 0x9120 (withRegs [(1, 9), (2, 9)]))).pc = 0x202 ∧
    (after (place 0x9120 (withRegs [(1, 9), (2, 8)]))).pc = 0x204 := by decide

/-! The ALU (2.4). -/

theorem test_ldImm : (after (place 0x6F07 State.reset)).reg 15 = 0x07 := by decide
theorem test_addImm : let t := after (place 0x7001 (withRegs [(0, 0xFF), (15, 5)]))
    t.reg 0 = 0x00 ∧ t.reg 15 = 0x05 := by decide
theorem test_ldReg : (after (place 0x8120 (withRegs [(1, 1), (2, 0x77)]))).reg 1 = 0x77 := by decide
theorem test_orReg : let t := after (place 0x8121 (withRegs [(1, 0xF0), (2, 0x0F), (15, 9)]))
    t.reg 1 = 0xFF ∧ t.reg 15 = 0x09 := by decide
theorem test_andReg : (after (place 0x8122 (withRegs [(1, 0xF3), (2, 0x3F)]))).reg 1 = 0x33 := by decide
theorem test_xorReg : (after (place 0x8123 (withRegs [(1, 0xFF), (2, 0x0F)]))).reg 1 = 0xF0 := by decide
theorem test_addReg : let t := after (place 0x80F4 (withRegs [(0, 0xFE), (15, 3)]))
    t.reg 0 = 0x01 ∧ t.reg 15 = 0x01 := by decide
theorem test_addReg_VF : (after (place 0x8F14 (withRegs [(15, 1), (1, 1)]))).reg 15 = 0x00 ∧
    (after (place 0x8F14 (withRegs [(15, 0xFF), (1, 1)]))).reg 15 = 0x01 := by decide
theorem test_subReg : let t := after (place 0x8015 (withRegs [(0, 5), (1, 6)]))
    t.reg 0 = 0xFF ∧ t.reg 15 = 0x00 := by decide
theorem test_subReg_old_VF : let t := after (place 0x80F5 (withRegs [(0, 0x10), (15, 0x10)]))
    t.reg 0 = 0x00 ∧ t.reg 15 = 0x01 := by decide
theorem test_subnReg : let t := after (place 0x8017 (withRegs [(0, 5), (1, 3)]))
    t.reg 0 = 0xFE ∧ t.reg 15 = 0x00 := by decide
theorem test_shr : let t := after (place 0x8126 (withRegs [(1, 4), (2, 0xFF)]))
    t.reg 1 = 0x02 ∧ t.reg 2 = 0xFF ∧ t.reg 15 = 0x00 := by decide
theorem test_shr_VF : (after (place 0x8F06 (withRegs [(15, 3)]))).reg 15 = 0x01 := by decide
theorem test_shl : let t := after (place 0x810E (withRegs [(1, 0x81)]))
    t.reg 1 = 0x02 ∧ t.reg 15 = 0x01 := by decide
theorem test_rnd : (after (place 0xC10F (withSample [] 0xA7 State.reset))).reg 1 = 0x07 := by decide

/-! The index register and memory (2.5). -/

theorem test_ldI : (after (place 0xA123 State.reset)).i = 0x0123 := by decide
theorem test_addI : let t := after (place 0xF01E { withRegs [(0, 1), (15, 7)] with i := 0x0FFF })
    t.i = 0x1000 ∧ t.reg 15 = 0x00 := by decide
theorem test_addI_carry : let t := after (place 0xFF1E { withRegs [(15, 5)] with i := 0xFFFE })
    t.i = 0x0003 ∧ t.reg 15 = 0x01 := by decide
theorem test_ldF : (after (place 0xF029 (withRegs [(0, 0x0F)]))).i = 0x009B ∧
    (after (place 0xF029 (withRegs [(0, 0xFF)]))).i = 0x054B := by decide
theorem test_ldB : let t := after (place 0xF033 { withRegs [(0, 245)] with i := 0xFFD })
    t.byteAt 0xFFD = 2 ∧ t.byteAt 0xFFE = 4 ∧ t.byteAt 0xFFF = 5 := by decide
theorem test_ldB_faults :
    (after (place 0xF033 { State.reset with i := 0xFFFF })).faultRec = faulted .writeRange 0x200 0xF033 0x10001 ∧
    (after (place 0xF033 { State.reset with i := 0x1FF })).faultRec = faulted .writeProtect 0x200 0xF033 0x1FF := by decide
theorem test_ldMemVx : let t := after (place 0xF255 { withRegs [(0, 0x11), (1, 0x22), (2, 0x33), (3, 0x44)] with i := 0x300 })
    t.byteAt 0x300 = 0x11 ∧ t.byteAt 0x302 = 0x33 ∧ t.byteAt 0x303 = 0x00 ∧ t.i = 0x300 := by decide
theorem test_ldMemVx_range : let t := after (place 0xFF55 { withRegs [(0, 1)] with i := 0xFF1 })
    t.faultRec = faulted .writeRange 0x200 0xFF55 0x1000 ∧ t.byteAt 0xFF1 = 0 := by decide
theorem test_ldVxMem : let t := after (place 0xF265
      { withRegs [(3, 0x99)] with i := 0x300, mem := [(0x300, 0xAA), (0x301, 0xBB), (0x302, 0xCC), (0x303, 0xDD)] })
    t.reg 0 = 0xAA ∧ t.reg 2 = 0xCC ∧ t.reg 3 = 0x99 ∧ t.i = 0x300 := by decide
theorem test_ldVxMem_glyph : (after (place 0xF065 { State.reset with i := 0x050 })).reg 0 = 0xF0 ∧
    (after (place 0xFF65 { State.reset with i := 0xFF1 })).faultRec = faulted .readRange 0x200 0xFF65 0x1000 := by decide

/-! The display (2.6). -/

theorem test_cls : let t := after (place 0x00E0 { withRegs [(15, 1)] with disp := Grid.blank.toggle 63 31 })
    t.disp.cell 63 31 = false ∧ t.reg 15 = 0x01 := by decide
theorem test_drw_wraps_and_clips : let t := after (place 0xD011 { withRegs [(0, 0x3E), (1, 0x7F)] with i := 0x300, mem := [(0x300, 0xFF)] })
    t.disp.cell 62 31 = true ∧ t.disp.cell 63 31 = true ∧ t.disp.cell 0 31 = false ∧ t.reg 15 = 0x00 := by decide
theorem test_drw_collides : let t := after (place 0xDF11
      { withRegs [(15, 1), (1, 2)] with i := 0x300, mem := [(0x300, 0x80)], disp := Grid.blank.toggle 1 2 })
    t.disp.cell 1 2 = false ∧ t.reg 15 = 0x01 := by decide

/-! Keypad and timers (2.7). -/

theorem test_skp : (after (place 0xE09E (withSample [15] 0 (withRegs [(0, 0x0F)])))).pc = 0x204 ∧
    (after (place 0xE09E (withSample [1, 15] 0 State.reset))).pc = 0x202 := by decide
theorem test_skp_index : (after (place 0xE09E (withRegs [(0, 0x10)]))).faultRec = faulted .keyIndex 0x200 0xE09E 0x10 := by decide
theorem test_sknp : (after (place 0xE0A1 (withSample [15] 0 (withRegs [(0, 0x0F)])))).pc = 0x202 ∧
    (after (place 0xE0A1 (withSample [] 0 State.reset))).pc = 0x204 := by decide
theorem test_ldVxK_waits : let t := after (place 0xF00A (withSample [] 0 { State.reset with dt := 1, st := 2 }))
    t.pc = 0x200 ∧ t.dt = 0x00 ∧ t.st = 0x01 := by decide
theorem test_ldVxK_goes_on : let t := after (place 0xF00A (withSample [3, 9] 0 (withRegs [(0, 0x33)])))
    t.pc = 0x202 ∧ t.reg 0 = 0x33 := by decide
theorem test_ldVxDt : let t := after (place 0xF007 { State.reset with dt := 0xFF })
    t.reg 0 = 0xFF ∧ t.dt = 0xFE := by decide
theorem test_ldDtVx : (after (place 0xF015 (withRegs [(0, 0xFF)]))).dt = 0xFE ∧
    (after (place 0xF015 { State.reset with dt := 9 })).dt = 0x00 := by decide
theorem test_ldStVx : let t := after (place 0xF018 { withRegs [(0, 2)] with dt := 1 })
    t.st = 0x01 ∧ t.dt = 0x00 := by decide

/-! Reset, load and outputs (2.8). -/

theorem test_reset : State.reset.pc = 0x0200 ∧ State.reset.byteAt 0x050 = 0xF0 ∧ State.reset.byteAt 0x09F = 0x80 ∧
    State.reset.byteAt 0x0A0 = 0x00 ∧ State.reset.byteAt 0x04F = 0x00 := by decide
theorem test_load : (State.reset.loadImage [0x12, 0x00]).map (fun t => (t.byteAt 0x200, t.byteAt 0x201, t.mem)) =
    some (0x12, 0x00, [(0x200, 0x12)]) := by decide

/-- The codes of R151 (decision D4). -/
theorem test_cause_codes : [Cause.none, .fetchRange, .stackUnderflow, .stackOverflow, .readRange, .writeRange, .writeProtect,
    .keyIndex].map Cause.code = [0, 1, 2, 3, 4, 5, 6, 7] := by decide

/-! Witnesses: for each statement with hypotheses, a state and operands that meet them, at the ends of their ranges. -/

/-- A running state in canonical form with a program, a listed sample and one return address. -/
def busy : State :=
  { State.reset with
    mem := [(0x200, 0x12), (0x201, 0x08), (0x208, 0xEE)], stack := [0x0206], inputs := [sample [7] 0xA7], dt := 3, st := 2 }

theorem witness_wf (s : State) (h : s.mem = [] := by rfl) : s.mem.wf s.params.glyphRom := by rw [h]; exact Memory.wf_nil _

theorem witness_busy_wf : busy.mem.wf busy.params.glyphRom := by
  refine ⟨by decide, fun c hc => ?_⟩
  simp only [busy, List.mem_cons, List.not_mem_nil, or_false] at hc
  rcases hc with rfl | rfl | rfl <;> exact ⟨by decide, by decide⟩

/-- An opcode at `PC` is what the core runs. -/
theorem witness_runs (s : State) (i : Instr) (h1 : s.halted = false := by decide) (h2 : s.pc.toNat ≤ 0xFFE := by decide)
    (h3 : decodeWord s.params.alias59 (s.wordAt s.pc.toNat) = .ok i := by decide) : Runs s i := runs_iff.mpr ⟨h1, h2, h3⟩

theorem test_witness_DecodeOfEncodeIsIdentity : (Instr.drw 15 15 15).wellFormed = true ∧ (Instr.drw 0 0 0).wellFormed = true := by
  decide
theorem test_witness_EncodeOfDecodeIsIdentity : decodeWord false 0xDFFF = .ok (.drw 15 15 15) := by decide
theorem test_witness_DecoderFollowsOpcodeTable :
    (∃ r ∈ opcodeTable, (0x8AB4 : Word) &&& r.mask = r.pattern) ∧ ∃ i, decodeWord false 0x8AB4 = .ok i :=
  ⟨⟨rowOf (.addReg 0 0), by decide, by decide⟩, .addReg 10 11, by decide⟩
theorem test_witness_UndefinedOpcodesAreThoseListed :
    (fieldF 0x00E1 = 0x0 ∧ fieldNNN 0x00E1 ≠ 0x0E0 ∧ fieldNNN 0x00E1 ≠ 0x0EE) ∧ (fieldF 0x5121 = 0x5 ∧ fieldN 0x5121 ≠ 0) ∧
    (fieldF 0x801F = 0x8 ∧ fieldN 0x801F ∈ ([0x8, 0x9, 0xA, 0xB, 0xC, 0xD, 0xF] : List (BitVec 4))) ∧
    (fieldF 0x912F = 0x9 ∧ fieldN 0x912F ≠ 0) ∧ (fieldF 0xE59F = 0xE ∧ fieldNN 0xE59F ≠ 0x9E ∧ fieldNN 0xE59F ≠ 0xA1) ∧
    (fieldF 0xFFFF = 0xF ∧ fieldNN 0xFFFF ∉ ([0x07, 0x0A, 0x15, 0x18, 0x1E, 0x29, 0x33, 0x55, 0x65] : List Byte)) := by decide
/-- An opcode under none of R66's conditions. -/
theorem test_witness_UndefinedOpcodes_none : fieldF 0x800E = 0x8 ∧
    fieldN 0x800E ∉ ([0x8, 0x9, 0xA, 0xB, 0xC, 0xD, 0xF] : List (BitVec 4)) := by decide
theorem test_witness_AliasParameterChangesOnly5And9 : (fieldF 0x5121 = 0x5 ∧ fieldN 0x5121 ≠ 0) ∧
    (fieldF 0x912F = 0x9 ∧ fieldN 0x912F ≠ 0) ∧ ¬((fieldF 0x5120 = 0x5 ∨ fieldF 0x5120 = 0x9) ∧ fieldN 0x5120 ≠ 0) := by decide

theorem test_witness_StepRunsTheDecodedInstruction :
    Runs (place 0x00EE State.reset) .ret ∧ (after (place 0x00EE State.reset)).halted = true ∧
    Runs (place 0x6FFF { State.reset with pc := 0xFFE }) (.ldImm 15 0xFF) ∧
    (after (place 0x6FFF { State.reset with pc := 0xFFE })).halted = false :=
  ⟨witness_runs _ _, by decide, witness_runs _ _, by decide⟩
theorem test_witness_FetchIsBigEndian : ({ State.reset with pc := 0xFFE } : State).pc.toNat ≤ 0xFFE := by decide
theorem test_witness_UndefinedOpcodeStepIsNoOp : State.reset.halted = false ∧ State.reset.fetch = some 0x0000 ∧
    decodeWord State.reset.params.alias59 0x0000 = .error (.undefinedOpcode 0x0000) := by decide
theorem test_witness_FetchOutOfRangeFaults : let s : State := { State.reset with pc := 0xFFF }
    s.halted = false ∧ 0xFFE < s.pc.toNat := by decide
theorem test_witness_HaltedCoreStaysAsItIs : (after (place 0x00EE State.reset)).halted = true := by decide
theorem test_witness_FaultingStepIsPrecise :
    let s := place 0x00EE State.reset
    s.halted = false ∧ step s = .next (after s) ∧ (after s).halted = true := ⟨by decide, rfl, by decide⟩
/-- Each fault at the nearest operand, and the nearest operand that does not fault. -/
theorem test_witness_BodyFaultsExactlyAsTabulated :
    faultOf .ret State.reset = some (.stackUnderflow, 0x1FE) ∧ faultOf .ret busy = none ∧
    faultOf (.call 0) { State.reset with stack := List.replicate 16 0 } = some (.stackOverflow, 0x1FE) ∧
    faultOf (.call 0) { State.reset with stack := List.replicate 15 0 } = none ∧
    faultOf (.drw 0 0 2) { State.reset with i := 0xFFF } = some (.readRange, 0x1000) ∧
    faultOf (.drw 0 0 1) { State.reset with i := 0xFFF } = none ∧ faultOf (.drw 0 0 0) { State.reset with i := 0xFFFF } = none ∧
    faultOf (.ldVxMem 1) { State.reset with i := 0xFFF } = some (.readRange, 0x1000) ∧
    faultOf (.ldVxMem 0) { State.reset with i := 0xFFF } = none ∧
    faultOf (.ldMemVx 1) { State.reset with i := 0xFFF } = some (.writeRange, 0x1000) ∧
    faultOf (.ldMemVx 15) { State.reset with i := 0x1FF } = some (.writeProtect, 0x1FF) ∧
    faultOf (.ldMemVx 15) { State.reset with i := 0x200 } = none ∧
    faultOf (.ldB 0) { State.reset with i := 0xFFE } = some (.writeRange, 0x1000) ∧
    faultOf (.ldB 0) { State.reset with i := 0xFFD } = none ∧
    faultOf (.ldB 0) { State.reset with i := 0x1FF } = some (.writeProtect, 0x1FF) ∧
    faultOf (.skp 0) (withRegs [(0, 16)]) = some (.keyIndex, 16) ∧ faultOf (.skp 0) (withRegs [(0, 15)]) = none ∧
    faultOf (.sknp 0) (withRegs [(0, 16)]) = some (.keyIndex, 16) ∧ faultOf (.sknp 0) (withRegs [(0, 15)]) = none := by decide
theorem test_witness_TimersTickOncePerStep :
    (let s := place 0xF015 State.reset
     Runs s (.ldDtVx 0) ∧ (∀ x, ¬Runs s (.ldStVx x)) ∧ step s = .next (after s) ∧ (after s).halted = false) ∧
    (let s := place 0xF018 State.reset
     Runs s (.ldStVx 0) ∧ (∀ x, ¬Runs s (.ldDtVx x)) ∧ step s = .next (after s) ∧ (after s).halted = false) := by
  refine ⟨⟨witness_runs _ _, fun x hx => ?_, rfl, by decide⟩, witness_runs _ _, fun x hx => ?_, rfl, by decide⟩ <;>
    exact absurd (runs_iff.mp hx).2.2 (by clear hx; revert x; decide)
theorem test_witness_OnlyNamedInstructionsWriteEachComponent :
    exec (.ldImm 0 1) State.reset = .next (State.reset.setReg 0 1) ∧ (State.reset.setReg 0 1).halted = false := ⟨rfl, by decide⟩
theorem test_witness_FlagRegisterSurvivesTheOthers :
    exec (.ldImm 14 1) State.reset = .next (State.reset.setReg 14 1) ∧ mayWriteVf (.ldImm 14 1) = false := ⟨rfl, by decide⟩
theorem test_witness_InputsReachOnlyTheirReaders :
    step busy = .next (after busy) ∧ ∀ i, Runs busy i → readsInput i = false := by
  refine ⟨rfl, fun i hi => ?_⟩
  have h := (runs_iff.mp hi).2.2
  rw [show decodeWord busy.params.alias59 (busy.wordAt busy.pc.toNat) = .ok (.jp 0x208) by decide] at h
  injection h with h; rw [← h]; rfl
theorem witness_busy_inv : Inv busy :=
  { memory := witness_busy_wf
    lowUntouched := by decide
    depth := fun d h => by injection h with h; subst h; decide
    returns := by simp [busy]
    counter := by decide
    running := fun _ => rfl
    stopped := fun h => Bool.noConfusion h }
theorem test_witness_InvariantKeptByEveryStep : Inv busy ∧ step busy = .next (after busy) := ⟨witness_busy_inv, rfl⟩
theorem test_witness_LowMemoryNeverChanges : busy.mem.wf busy.params.glyphRom ∧ step busy = .next (after busy) ∧ 0x1FF < 0x200 :=
  ⟨witness_busy_wf, rfl, by decide⟩
theorem test_witness_CanonicalMemoryIsDeterminedByItsReads :
    busy.mem.wf busy.params.glyphRom ∧ ∀ a, busy.mem.read busy.params.glyphRom a = busy.mem.read busy.params.glyphRom a :=
  ⟨witness_busy_wf, fun _ => rfl⟩

/-- Both sides of every flag: sum 256 and 255, equal operands and one less, both bits shifted out, and `X = F`. -/
theorem test_witness_flags :
    255 < ((withRegs [(0, 0xFF), (1, 1)]).reg 0).toNat + ((withRegs [(0, 0xFF), (1, 1)]).reg 1).toNat ∧
    ¬255 < ((withRegs [(0, 0xFE), (1, 1)]).reg 0).toNat + ((withRegs [(0, 0xFE), (1, 1)]).reg 1).toNat ∧
    ((withRegs [(0, 5), (1, 5)]).reg 1).toNat ≤ ((withRegs [(0, 5), (1, 5)]).reg 0).toNat ∧
    ¬((withRegs [(0, 5), (1, 6)]).reg 1).toNat ≤ ((withRegs [(0, 5), (1, 6)]).reg 0).toNat ∧
    ((withRegs [(0, 0xFF)]).reg 0).toNat % 2 = 1 ∧ ¬((withRegs [(0, 0xFE)]).reg 0).toNat % 2 = 1 ∧
    128 ≤ ((withRegs [(0, 0x80)]).reg 0).toNat ∧ ¬128 ≤ ((withRegs [(0, 0x7F)]).reg 0).toNat ∧ (14 : RegIdx) ≠ vf := by decide
theorem test_witness_RandomByteIsMasked : (withSample [] 0xA7 State.reset).inputs = sample [] 0xA7 :: [] := rfl
/-- Room on the stack: the last entry, and an unbounded depth. -/
theorem test_witness_CallPushesTheReturnAddress :
    (∀ d, State.reset.params.stackDepth = some d → ({ State.reset with stack := List.replicate 15 0 } : State).sp < d) ∧
    ∀ d, ({ defaultParams with stackDepth := none } : Params).stackDepth = some d → busy.sp < d :=
  ⟨fun d h => by injection h with h; subst h; decide, fun d h => nomatch h⟩
theorem test_witness_ReturnPopsTheLatestEntry : busy.stack = 0x0206 :: [] := rfl
theorem test_witness_ReturnStepPopsOrFaults :
    (place 0x00EE busy).halted = false ∧ (place 0x00EE busy).fetch = some 0x00EE ∧ (place 0x00EE busy).stack = 0x0206 :: [] ∧
    (place 0x00EE State.reset).fetch = some 0x00EE ∧ (place 0x00EE State.reset).stack = [] := by decide
theorem test_witness_CallThenReturnComesBack :
    let s := place 0x2FFE { State.reset with mem := [(0xFFF, 0xEE)], stack := List.replicate 15 0 }
    Runs s (.call 0xFFE) ∧ (∀ d, s.params.stackDepth = some d → s.sp < d) ∧ (0xFFE : Addr12).toNat ≤ 0xFFE ∧
      s.wordAt (0xFFE : Addr12).toNat = 0x00EE :=
  ⟨witness_runs _ _, fun d h => by injection h with h; subst h; decide, by decide, by decide⟩
/-- Each skip, taken and not taken. -/
theorem test_witness_SkipsAddExactlyTwo :
    let s := withRegs [(1, 9), (2, 8)]
    s.reg 1 = 9 ∧ ¬s.reg 1 = 8 ∧ s.reg 1 ≠ 8 ∧ ¬s.reg 1 ≠ 9 ∧ s.reg 1 = s.reg 1 ∧ ¬s.reg 1 = s.reg 2 := by decide
theorem test_witness_TerminalSelfJumpOnlyRunsTheTimers :
    let s := place 0x1FFE { State.reset with pc := 0xFFE }
    s.halted = false ∧ s.atTerminalJump := ⟨by decide, by decide, by decide⟩
theorem test_witness_KeySkipsTestTheSample :
    let s := withSample [15] 0 (withRegs [(0, 15)])
    (s.reg 0).toNat = (15 : Fin 16).val ∧ s.input.key[15] = true ∧ (s.reg 1).toNat = (0 : Fin 16).val ∧ s.input.key[0] = false := by
  decide
theorem test_witness_KeyWaitRepeatsUntilAKeyIsDown :
    (let s := withSample [] 0 (place 0xF00A State.reset)
     (∀ k : Fin 16, s.input.key[k.val] = false) ∧ Runs s (.ldVxK 0)) ∧
    (let s := withSample [15] 0 (place 0xF00A State.reset)
     (∃ k : Fin 16, s.input.key[k.val] = true) ∧ Runs s (.ldVxK 0)) :=
  ⟨⟨by decide, witness_runs _ _⟩, ⟨15, by decide⟩, witness_runs _ _⟩
theorem test_witness_TimerTransfersAndTheTick : Runs (place 0xF007 State.reset) (.ldVxDt 0) ∧
    Runs (place 0xF015 State.reset) (.ldDtVx 0) ∧ Runs (place 0xF018 State.reset) (.ldStVx 0) :=
  ⟨witness_runs _ _, witness_runs _ _, witness_runs _ _⟩
theorem test_witness_AddToIndexReportsCarry :
    (let s : State := { withRegs [(0, 1)] with i := 0xFFFF }
     65535 < s.i.toNat + (s.reg 0).toNat) ∧
    (let s : State := { withRegs [(0, 1)] with i := 0xFFFE }
     ¬65535 < s.i.toNat + (s.reg 0).toNat) := by decide
theorem test_witness_DecimalDigitsAreStored :
    (let s : State := { State.reset with i := 0x200 }
     s.mem.wf s.params.glyphRom ∧ 0x200 ≤ s.i.toNat ∧ s.i.toNat + 2 ≤ 0xFFF) ∧
    (let s : State := { State.reset with i := 0xFFD }
     s.mem.wf s.params.glyphRom ∧ 0x200 ≤ s.i.toNat ∧ s.i.toNat + 2 ≤ 0xFFF) :=
  ⟨⟨witness_wf _, by decide, by decide⟩, witness_wf _, by decide, by decide⟩
/-- The operands of RegisterBlockIsStored, RegisterBlockIsLoaded and StoreThenLoadRoundTrips. -/
theorem test_witness_register_blocks :
    (let s : State := { State.reset with i := 0x200 }
     s.mem.wf s.params.glyphRom ∧ 0x200 ≤ s.i.toNat ∧ s.i.toNat + (0 : RegIdx).val ≤ 0xFFF) ∧
    (let s : State := { State.reset with i := 0xFF0 }
     s.mem.wf s.params.glyphRom ∧ 0x200 ≤ s.i.toNat ∧ s.i.toNat + (15 : RegIdx).val ≤ 0xFFF) ∧
    (let s : State := { State.reset with i := 0xFFF }
     s.i.toNat + (0 : RegIdx).val ≤ 0xFFF) ∧ (0 : RegIdx) ≤ 15 ∧ (14 : RegIdx) < 15 :=
  ⟨⟨witness_wf _, by decide, by decide⟩, ⟨witness_wf _, by decide, by decide⟩, by decide, by decide, by decide⟩
theorem test_witness_StoredBytesAreFetched :
    let s := { busy with mem := [(0x200, 0xFF), (0x201, 0x55)], i := 0xFF0 }
    Runs s (.ldMemVx 15) ∧ s.mem.wf s.params.glyphRom ∧ 0x200 ≤ s.i.toNat ∧ s.i.toNat + (15 : RegIdx).val ≤ 0xFFF ∧
      (14 : RegIdx).val + 1 ≤ (15 : RegIdx).val := by
  refine ⟨witness_runs _ _, ⟨by decide, fun c hc => ?_⟩, by decide, by decide, by decide⟩
  simp only [List.mem_cons, List.not_mem_nil, or_false] at hc
  rcases hc with rfl | rfl <;> exact ⟨by decide, by decide⟩
/-- In range at the last byte, with `n = 0` at any `I`; a collision and none. -/
theorem test_witness_DrawXorsTheClippedSprite :
    (let s : State := { withRegs [(0, 63), (1, 31)] with i := 0xFFF, mem := [(0xFFF, 0x80)], disp := Grid.blank.toggle 63 31 }
     s.i.toNat + 1 - 1 ≤ 0xFFF ∧ ∃ p q, p < 64 ∧ q < 32 ∧ spriteBit s 0 1 1 p q = true ∧ s.disp.cell p q = true) ∧
    (let s : State := { State.reset with i := 0xFFFF }
     ((0 : Nat) = 0 ∨ s.i.toNat + 0 - 1 ≤ 0xFFF) ∧
       ¬∃ p q, p < 64 ∧ q < 32 ∧ spriteBit s 0 1 0 p q = true ∧ s.disp.cell p q = true) := by
  refine ⟨⟨by decide, 63, 31, by decide, by decide, by decide, by decide⟩, .inl rfl, fun ⟨p, q, _, _, h, _⟩ => ?_⟩
  simp only [spriteBit, Nat.add_zero, Bool.and_eq_true, decide_eq_true_eq] at h
  omega
theorem test_witness_DrawTwiceRestoresTheDisplay : let s : State := { State.reset with i := 0xFF1 }
    ((15 : Nat) = 0 ∨ s.i.toNat + 15 - 1 ≤ 0xFFF) ∧ (0 : RegIdx) ≠ vf ∧ (14 : RegIdx) ≠ vf := by decide
theorem test_witness_ResetStateValues : State.reset = State.reset ∧ busy.resetCore = busy.resetCore ∧
    (0x4F : Nat) < 0x50 ∧ (0xA0 : Nat) ≤ 0xA0 ∧ (4095 : Nat) < 4096 := ⟨rfl, rfl, by decide, by decide, by decide⟩
theorem test_witness_ProgramImageIsLoadedOrRefused : State.reset.mem.wf State.reset.params.glyphRom ∧
    (List.replicate 3584 (0x12 : Byte)).length ≤ 3584 ∧ 3583 < (List.replicate 3584 (0x12 : Byte)).length ∧
    3584 < (List.replicate 3585 (0x12 : Byte)).length :=
  ⟨witness_wf _, by rw [List.length_replicate], by rw [List.length_replicate]; decide, by rw [List.length_replicate]; decide⟩
theorem test_witness_HostOutputs : (63 : Nat) < 64 ∧ (31 : Nat) < 32 ∧ busy.st.toNat ≠ 0 ∧ ¬State.reset.st.toNat ≠ 0 := by decide

end Sys2Proof.Tests
end

section
/-! PROOFS. The state family (spec/10_state.md): what a body can do, said once, and the obligations on components, inputs,
the invariant, low memory, the canonical form and reset. -/

namespace Sys2Proof.Machine

/-! Frames of two updates in a row. -/

/-- Two transitions in a row keep what neither writes. -/
theorem KeepsAllBut.append {ps qs : List Part} {s t u : State} (h : KeepsAllBut ps s t) (k : KeepsAllBut qs t u) :
    KeepsAllBut (ps ++ qs) s u :=
  (h.mono (List.subset_append_left ps qs)).trans (k.mono (List.subset_append_right ps qs))

theorem State.setStack_setPc_keeps (s : State) (l : List Word) (w : Word) :
    KeepsAllBut [.pc, .stack] s ((s.setStack l).setPc w) :=
  ((s.setStack_keeps l).append (State.setPc_keeps _ w)).mono (by simp)

/-! Guarded bodies: the two ends of a check. -/

/-- A guarded body whose check names real causes takes its fault, or keeps what its unguarded state keeps. -/
theorem guarded_next_cases {ps : List Part} {check : Option (Cause × Nat)} {s t u : State}
    (h : (.next (s.guarded check u) : Result) = .next t) (hc : ∀ c n, check = some (c, n) → c ≠ .none)
    (hk : KeepsAllBut ps s u) : (∃ c n, c ≠ .none ∧ t = s.raiseFault c n) ∨ KeepsAllBut ps s t := by
  injection h with h
  subst h
  rcases s.guarded_cases u check with ⟨-, e⟩ | ⟨c, n, e', e⟩ <;> rw [e]
  · exact .inr hk
  · exact .inl ⟨c, n, hc c n e', rfl⟩

/-- A guarded body that ends running has passed its check. -/
theorem eq_of_guarded_next {check : Option (Cause × Nat)} {s t u : State}
    (h : (.next (s.guarded check u) : Result) = .next t) (ht : t.halted = false) : check = none ∧ t = u := by
  injection h with h
  subst h
  rcases s.guarded_cases u check with ⟨e', e⟩ | ⟨c, n, -, e⟩
  · exact ⟨e', e⟩
  · simp [e] at ht

theorem State.guarded_mem {s u : State} (check : Option (Cause × Nat)) (h : u.mem = s.mem) :
    (s.guarded check u).mem = s.mem := by
  rcases s.guarded_cases u check with ⟨-, e⟩ | ⟨c, n, -, e⟩ <;> rw [e]
  · exact h
  · rfl

/-- Replacing the samples goes through a guarded body: neither its check nor fault entry reads them. -/
theorem guarded_next_setInputs {check : Option (Cause × Nat)} {s t u : State}
    (h : (.next (s.guarded check u) : Result) = .next t) (l : List Input) (n : Nat) :
    (.next ((s.setInputs l n).guarded check (u.setInputs l n)) : Result) = .next (t.setInputs l n) := by
  injection h with h
  subst h
  rcases check with _ | ⟨c, k⟩ <;> rfl

theorem checkLoad_cause_ne_none {i0 len : Nat} {c : Cause} {n : Nat} (h : checkLoad i0 len = some (c, n)) : c ≠ .none := by
  unfold checkLoad at h; split at h <;> cases h; decide

theorem checkStore_cause_ne_none {i0 len : Nat} {c : Cause} {n : Nat} (h : checkStore i0 len = some (c, n)) : c ≠ .none := by
  unfold checkStore at h
  split at h
  · cases h; decide
  · split at h <;> cases h; decide

theorem checkKey_cause_ne_none {a : Byte} {c : Cause} {n : Nat} (h : checkKey a = some (c, n)) : c ≠ .none := by
  unfold checkKey at h; split at h <;> cases h; decide

/-! What a body can do, component by component. -/

/-- 00EE faults on an empty stack, else pops its newest entry into `PC` (R90). -/
theorem exec_ret_cases {s t : State} (h : exec .ret s = .next t) :
    t = s.raiseFault .stackUnderflow s.pc0.toNat ∨ ∃ e rest, s.stack = e :: rest ∧ t = (s.setStack rest).setPc e := by
  simp only [exec, execRet] at h
  split at h <;> cases h
  · exact .inl rfl
  · exact .inr ⟨_, _, by assumption, rfl⟩

/-- What a body can do (R20, R153): it takes a fault with a cause, or writes only what R20 gives its instruction. -/
theorem exec_cases {i : Instr} {s t : State} (h : exec i s = .next t) :
    (∃ c n, c ≠ .none ∧ t = s.raiseFault c n) ∨ KeepsAllBut (writtenParts i) s t := by
  cases i
  case ret =>
    rcases exec_ret_cases h with rfl | ⟨e, rest, -, rfl⟩
    · exact .inl ⟨_, _, by decide, rfl⟩
    · exact .inr (s.setStack_setPc_keeps rest e)
  case call nnn =>
    refine guarded_next_cases h (fun c n e => ?_) (s.setStack_setPc_keeps _ _)
    split at e <;> cases e; decide
  case skp | sknp => exact guarded_next_cases h (fun _ _ => checkKey_cause_ne_none) (s.setPc_keeps _)
  case ldB | ldMemVx => exact guarded_next_cases h (fun _ _ => checkStore_cause_ne_none) (s.storeBytes_keeps _ _)
  case ldVxMem => exact guarded_next_cases h (fun _ _ => checkLoad_cause_ne_none) (s.setRegs_keeps _)
  case drw =>
    exact guarded_next_cases h (fun _ _ => checkLoad_cause_ne_none) ((s.setDisp_keeps _).append (State.setFlag_keeps _ _))
  case addI => cases h; exact .inr ((s.setI_keeps _).append (State.setFlag_keeps _ _))
  case cls => cases h; exact .inr (s.setDisp_keeps _)
  case ldDtVx => cases h; exact .inr (s.setDt_keeps _)
  case ldStVx => cases h; exact .inr (s.setSt_keeps _)
  case ldI | ldF => cases h; exact .inr (s.setI_keeps _)
  case jp | jpV0 | seImm | sneImm | seReg | sneReg | ldVxK => cases h; exact .inr (s.setPc_keeps _)
  case addReg | subReg | shr | subnReg | shl =>
    cases h; exact .inr ((s.setReg_keeps _ _).trans (State.setFlag_keeps _ _))
  all_goals cases h; exact .inr (s.setReg_keeps _ _)

theorem exec_keeps {i : Instr} {s t : State} (h : exec i s = .next t) (ht : t.halted = false) :
    KeepsAllBut (writtenParts i) s t := by
  rcases exec_cases h with ⟨c, n, -, rfl⟩ | hk
  · cases ht
  · exact hk

/-- A component that neither the instruction nor fault entry writes is kept, faulting or not. -/
theorem exec_keeps_part {i : Instr} {s t : State} (h : exec i s = .next t) {p : Part} (hw : p ∉ writtenParts i)
    (hf : p ∉ [Part.faultRec, .pc]) : p.kept s t := by
  rcases exec_cases h with ⟨c, n, -, rfl⟩ | hk
  · obtain ⟨-, -, hkeep⟩ := s.raiseFault_taken c n
    exact hkeep p hf
  · exact hk p hw

theorem exec_params {i : Instr} {s t : State} (h : exec i s = .next t) : t.params = s.params :=
  exec_keeps_part (p := .params) h (by cases i <;> simp [writtenParts]) (by decide)

theorem faultRec_notMem_writtenParts (i : Instr) : Part.faultRec ∉ writtenParts i := by
  cases i <;> simp [writtenParts]

theorem exec_faultRec {i : Instr} {s t : State} (h : exec i s = .next t) (ht : t.halted = false) :
    t.faultRec = s.faultRec :=
  exec_keeps h ht .faultRec (faultRec_notMem_writtenParts i)

/-- A body halts a running core only by fault entry with a cause (R153). -/
theorem exec_fault {i : Instr} {s t : State} (h : exec i s = .next t) (hs : s.halted = false) (ht : t.halted = true) :
    ∃ c n, c ≠ .none ∧ t = s.raiseFault c n := by
  rcases exec_cases h with hfault | hk
  · exact hfault
  · have hrec : t.faultRec = s.faultRec := hk .faultRec (faultRec_notMem_writtenParts i)
    have hhalt : t.halted = s.halted := congrArg FaultRecord.fault hrec
    rw [ht, hs] at hhalt
    cases hhalt

/-- A guarded store of at least one byte changes no memory, or stores inside the writable range (R47, R48). -/
theorem guarded_store_cases {s t : State} {a : Nat} {bs : List Byte} (hbs : 0 < bs.length)
    (h : (.next (s.guarded (checkStore a bs.length) (s.storeBytes a bs)) : Result) = .next t) :
    t.mem = s.mem ∨ ∃ a bs, writeBase ≤ a ∧ a + bs.length ≤ memSize ∧ t = s.storeBytes a bs := by
  injection h with h
  subst h
  rcases s.guarded_cases (s.storeBytes a bs) (checkStore a bs.length) with ⟨e', e⟩ | ⟨c, n, -, e⟩ <;> rw [e]
  · obtain ⟨hr, hw⟩ := checkStore_eq_none.mp e'
    exact .inr ⟨a, bs, hw, hr.resolve_left (by omega), rfl⟩
  · exact .inl rfl

/-- What a body can do to `mem`: nothing, or one store inside the writable range (R47, R48). -/
theorem exec_mem_cases {i : Instr} {s t : State} (h : exec i s = .next t) :
    t.mem = s.mem ∨ ∃ a bs, writeBase ≤ a ∧ a + bs.length ≤ memSize ∧ t = s.storeBytes a bs := by
  cases i
  case ldB x => exact guarded_store_cases (bs := bcdDigits (s.reg x)) (by simp [bcdDigits]) h
  case ldMemVx x => exact guarded_store_cases (bs := s.block x) (by simp [s.length_block]) (by rw [s.length_block]; exact h)
  case ret =>
    rcases exec_ret_cases h with rfl | ⟨e, rest, -, rfl⟩ <;> exact .inl rfl
  case call | skp | sknp | drw | ldVxMem => cases h; exact .inl (s.guarded_mem _ rfl)
  all_goals cases h; exact .inl rfl

/-- What a body that ends running can do to the stack: nothing, a pop into `PC`, or a push of `PC` with room (R90, R92). -/
theorem exec_stack_cases {i : Instr} {s t : State} (h : exec i s = .next t) (ht : t.halted = false) :
    t.stack = s.stack ∨ s.stack = t.pc :: t.stack ∨ (t.stack = s.pc :: s.stack ∧ s.stackFull = false) := by
  cases i
  case ret =>
    rcases exec_ret_cases h with rfl | ⟨e, rest, he, rfl⟩
    · cases ht
    · exact .inr (.inl he)
  case call nnn =>
    obtain ⟨hc, rfl⟩ := eq_of_guarded_next h ht
    exact .inr (.inr ⟨rfl, by simpa using hc⟩)
  all_goals exact .inl (exec_keeps h ht .stack (by simp [writtenParts]))

theorem State.skipIf_pc_cases (s : State) (c : Bool) : (s.skipIf c).pc = s.pc ∨ (s.skipIf c).pc = s.pc + 2 := by
  cases c
  · exact .inl rfl
  · exact .inr rfl

theorem addrOf_le (nnn : Addr12) : (addrOf nnn).toNat ≤ 0xFFF := by
  have := nnn.isLt
  simp only [addrOf, BitVec.toNat_setWidth]; omega

/-- BNNN's largest target is 0xFFF + 0xFF (R93). -/
theorem jpV0_target_le (b : Byte) (nnn : Addr12) : (BitVec.ofNat 16 (b.toNat + nnn.toNat)).toNat ≤ 0x10FE := by
  have := b.isLt
  have := nnn.isLt
  simp only [BitVec.toNat_ofNat]; omega

/-- Where a body that ends running can leave `PC`: near where it was, at a jump's target, or at a return address (R27). -/
theorem exec_pc_cases {i : Instr} {s t : State} (h : exec i s = .next t) (ht : t.halted = false) :
    (t.pc = s.pc ∨ t.pc = s.pc + 2) ∨ t.pc = s.pc - 2 ∨ t.pc.toNat ≤ 0x10FE ∨ t.pc ∈ s.stack := by
  cases i
  case ret =>
    rcases exec_ret_cases h with rfl | ⟨e, rest, he, rfl⟩
    · cases ht
    · exact .inr (.inr (.inr (by simp [he])))
  case jp nnn => cases h; exact .inr (.inr (.inl ((addrOf_le nnn).trans (by decide))))
  case call nnn =>
    obtain ⟨-, rfl⟩ := eq_of_guarded_next h ht
    exact .inr (.inr (.inl ((addrOf_le nnn).trans (by decide))))
  case jpV0 nnn => cases h; exact .inr (.inr (.inl (jpV0_target_le _ nnn)))
  case seImm | sneImm | seReg | sneReg => cases h; exact .inl (s.skipIf_pc_cases _)
  case skp | sknp =>
    obtain ⟨-, rfl⟩ := eq_of_guarded_next h ht
    exact .inl (s.skipIf_pc_cases _)
  case ldVxK x =>
    cases h
    by_cases hk : s.anyKey = true
    · exact .inl (.inl (if_pos hk))
    · exact .inr (.inl (if_neg hk))
  all_goals exact .inl (.inl (exec_keeps h ht .pc (by simp [writtenParts])))

/-! The invariant. -/

/-- A `mem` with nothing listed below 0x200 keeps that through a body (R48). -/
theorem exec_keeps_lowUntouched {i : Instr} {s t : State} (hs : ∀ c ∈ s.mem, writeBase ≤ c.1) (h : exec i s = .next t) :
    ∀ c ∈ t.mem, writeBase ≤ c.1 := by
  rcases exec_mem_cases h with e | ⟨a, bs, ha, -, rfl⟩
  · rwa [e]
  · intro c hc
    rcases Memory.mem_writeBytes hc with hc | ⟨hac, -⟩
    · exact hs c hc
    · exact ha.trans hac

theorem exec_keeps_wf {i : Instr} {s t : State} (hs : s.mem.wf s.params.glyphRom) (h : exec i s = .next t) :
    t.mem.wf t.params.glyphRom := by
  rcases exec_mem_cases h with e | ⟨a, bs, -, ha, rfl⟩
  · rwa [exec_params h, e]
  · exact Memory.wf_writeBytes hs ha

/-- A stack with room is below its depth (R28, R92). -/
theorem State.sp_lt_of_not_stackFull {s : State} (h : s.stackFull = false) {d : Nat} (hd : s.params.stackDepth = some d) :
    s.sp < d := by
  simpa [State.stackFull, hd] using h

theorem exec_keeps_depth {i : Instr} {s t : State} (hs : ∀ d, s.params.stackDepth = some d → s.sp ≤ d)
    (h : exec i s = .next t) (ht : t.halted = false) : ∀ d, t.params.stackDepth = some d → t.sp ≤ d := by
  intro d hd
  rw [exec_params h] at hd
  have hsp : s.stack.length ≤ d := hs d hd
  show t.stack.length ≤ d
  rcases exec_stack_cases h ht with e | e | ⟨e, hroom⟩
  · rwa [e]
  · rw [e, List.length_cons] at hsp; omega
  · have : s.stack.length < d := State.sp_lt_of_not_stackFull hroom hd
    rw [e, List.length_cons]; omega

theorem exec_keeps_returns {i : Instr} {s t : State} (hs : ∀ e ∈ s.stack, e.toNat ≤ 0x1000) (hpc : s.pc.toNat ≤ 0x1000)
    (h : exec i s = .next t) (ht : t.halted = false) : ∀ e ∈ t.stack, e.toNat ≤ 0x1000 := by
  rcases exec_stack_cases h ht with e | e | ⟨e, -⟩
  · rwa [e]
  · exact fun w hw => hs w (e ▸ List.mem_cons_of_mem _ hw)
  · rw [e]; exact List.forall_mem_cons.mpr ⟨hpc, hs⟩

theorem exec_pc_le {i : Instr} {s t : State} (hs : ∀ e ∈ s.stack, e.toNat ≤ 0x1000) (h2 : 2 ≤ s.pc.toNat)
    (hpc : s.pc.toNat ≤ 0x1000) (h : exec i s = .next t) (ht : t.halted = false) : t.pc.toNat ≤ 0x10FE := by
  rcases exec_pc_cases h ht with (e | e) | e | e | e
  · rw [e]; omega
  · rw [e]; bv_omega
  · rw [e]; bv_omega
  · exact e
  · exact (hs _ e).trans (by decide)

/-- A running body keeps the invariant, from the `PC` that the step's advance leaves (R82). -/
theorem exec_keeps_inv {i : Instr} {s t : State} (hs : Inv s) (hr : s.halted = false) (h2 : 2 ≤ s.pc.toNat)
    (hpc : s.pc.toNat ≤ 0x1000) (h : exec i s = .next t) (ht : t.halted = false) : Inv t where
  memory := exec_keeps_wf hs.memory h
  lowUntouched := exec_keeps_lowUntouched hs.lowUntouched h
  depth := exec_keeps_depth hs.depth h ht
  returns := exec_keeps_returns hs.returns hpc h ht
  counter := exec_pc_le hs.returns h2 hpc h ht
  running := fun _ => (exec_faultRec h ht).trans (hs.running hr)
  stopped := fun h => absurd h (by simp [ht])

/-- A fetch in range leaves room for the advance (R82, D14). -/
theorem State.advance_pc_toNat {s : State} (h : s.pc.toNat ≤ 0xFFE) : s.advance.pc.toNat = s.pc.toNat + 2 := by
  simp only [State.advance, State.setPc_pc]; bv_omega

theorem Inv.advance {s : State} (hs : Inv s) (hr : s.halted = false) (hpc : s.pc.toNat ≤ 0xFFE) : Inv s.advance :=
  { hs with
    counter := by rw [State.advance_pc_toNat hpc]; omega
    stopped := fun h => absurd (hr.symm.trans h) Bool.false_ne_true }

theorem Inv.endStep {s : State} (hs : Inv s) : Inv s.endStep := { hs with }

/-- Fault entry with a cause, at the `PC` of the step, keeps the invariant (R153). -/
theorem Inv.latchFault {s : State} (hs : Inv s) {c : Cause} (hc : c ≠ .none) (op : Word) (n : Nat) :
    Inv (s.latchFault c s.pc op n) :=
  { hs with running := fun h => Bool.noConfusion h, stopped := fun _ => ⟨hc, rfl⟩ }

/-- Settles O19: each of the four ends of a step (`step_cases`) keeps the invariant. -/
theorem invariantKeptByEveryStep : Obligations.InvariantKeptByEveryStep := by
  intro s t hs h
  rcases step_cases h with ⟨-, rfl⟩ | ⟨-, -, rfl⟩ | ⟨hr, hpc, i, u, -, hu, rfl⟩ | ⟨hr, hpc, -, rfl⟩
  · exact hs
  · exact hs.latchFault (by decide) _ _
  · split
    next hf =>
      obtain ⟨c, n, hc, rfl⟩ := exec_fault hu hr hf
      rw [State.raiseFault_advance]
      exact hs.latchFault hc _ _
    next hf =>
      have hadv := State.advance_pc_toNat hpc
      exact (exec_keeps_inv (hs.advance hr hpc) hr (by omega) (by omega) hu (by simpa using hf)).endStep
  · exact (hs.advance hr hpc).endStep

/-! Low memory. -/

theorem State.byteAt_congr {s t : State} (hm : t.mem = s.mem) (hp : t.params = s.params) (a : Nat) :
    t.byteAt a = s.byteAt a := by
  rw [State.byteAt, State.byteAt, hm, hp]

/-- A body keeps every byte below the write floor (R48). -/
theorem exec_keeps_low {i : Instr} {s t : State} (hs : s.mem.wf s.params.glyphRom) (h : exec i s = .next t) {k : Nat}
    (hk : k < writeBase) : t.byteAt k = s.byteAt k := by
  obtain ⟨hsorted, -⟩ := hs
  rcases exec_mem_cases h with e | ⟨a, bs, ha, -, rfl⟩
  · exact State.byteAt_congr e (exec_params h) k
  · exact s.byteAt_storeBytes_outside hsorted a bs k (.inl (hk.trans_le ha))

/-- Settles O21: only a store of a body writes `mem`, and it starts at 0x200 or above. -/
theorem lowMemoryNeverChanges : Obligations.LowMemoryNeverChanges := by
  intro s t a hs h ha
  rcases step_cases h with ⟨-, rfl⟩ | ⟨-, -, rfl⟩ | ⟨-, -, i, u, -, hu, rfl⟩ | ⟨-, -, -, rfl⟩
  · rfl
  · rfl
  · have hlow : u.byteAt a = s.byteAt a := exec_keeps_low (s := s.advance) hs hu ha
    split <;> exact hlow
  · rfl

/-! The canonical form. -/

/-- In canonical form the listed cells are the addresses that do not read as their reset contents. -/
theorem Memory.mem_iff_read {rom : GlyphRom} {m : Memory} (h : m.wf rom) (c : Host.Cell) :
    c ∈ m ↔ m.read rom c.1 = c.2 ∧ c.2 ≠ resetByte rom c.1 := by
  obtain ⟨hs, hd⟩ := h
  constructor
  · intro hc
    have : m.lookup c.1 = some c.2 := (Memory.lookup_eq_some hs).mpr hc
    exact ⟨by simp [Memory.read, this], (hd c hc).2⟩
  · rintro ⟨hr, hne⟩
    cases hl : m.lookup c.1 with
    | none => simp only [Memory.read, hl] at hr; exact absurd hr.symm hne
    | some b =>
      simp only [Memory.read, hl] at hr
      exact (Memory.lookup_eq_some hs).mp (hl.trans (congrArg some hr))

/-- Settles O22: the reads fix which cells are listed, and the rising addresses fix their order. -/
theorem canonicalMemoryIsDeterminedByItsReads : Obligations.CanonicalMemoryIsDeterminedByItsReads := by
  intro rom m m' hm hm' hread
  have hmem : ∀ c, c ∈ m ↔ c ∈ m' := fun c => by
    rw [Memory.mem_iff_read hm, Memory.mem_iff_read hm', hread]
  have : Std.Irrefl fun c d : Host.Cell => c.1 < d.1 := ⟨fun c => Nat.lt_irrefl c.1⟩
  have : Std.Antisymm fun c d : Host.Cell => c.1 < d.1 := ⟨fun _ _ h h' => absurd h h'.not_gt⟩
  obtain ⟨hs, -⟩ := hm
  obtain ⟨hs', -⟩ := hm'
  exact hs.eq_of_mem_iff hs' hmem

/-! Components and inputs. -/

/-- Settles O16: a body that ends running took no fault. -/
theorem onlyNamedInstructionsWriteEachComponent : Obligations.OnlyNamedInstructionsWriteEachComponent :=
  fun _ _ _ => exec_keeps

/-- FX65 with `X ≠ 0xF` loads no byte into `VF` (R126). -/
theorem State.reg_vf_setRegs_loadBlock (s : State) (a : Nat) {x : RegIdx} (hx : x ≠ vf) :
    (s.setRegs (s.loadBlock a (x.val + 1))).reg vf = s.reg vf := by
  rw [State.reg_setRegs_loadBlock, if_neg]
  intro hlt
  exact hx (Fin.ext (by have := x.isLt; simp only [vf] at hlt ⊢; omega))

/-- Settles O17: a body that writes `V` and is no flag writer has a destination other than `VF`; every other one keeps `V`. -/
theorem flagRegisterSurvivesTheOthers : Obligations.FlagRegisterSurvivesTheOthers := by
  intro i s t h hv
  cases i
  case addReg | subReg | subnReg | shr | shl | addI | drw => cases hv
  case ldImm | addImm | ldReg | orReg | andReg | xorReg | rnd | ldVxDt =>
    cases h; exact s.reg_setReg_ne _ (Ne.symm (of_decide_eq_false hv))
  case ldVxMem x =>
    cases h
    rcases s.guarded_cases (s.setRegs (s.loadBlock s.base (x.val + 1))) (checkLoad s.base (x.val + 1)) with
      ⟨-, e⟩ | ⟨c, n, -, e⟩ <;> rw [e]
    · exact s.reg_vf_setRegs_loadBlock s.base (of_decide_eq_false hv)
    · rfl
  all_goals exact exec_keeps_part (p := .regs) h (by simp [writtenParts]) (by decide) vf

theorem State.loadBlock_setInputs (s : State) (l : List Input) (n a k : Nat) :
    (s.setInputs l n).loadBlock a k = s.loadBlock a k := by
  induction k with
  | zero => rfl
  | succ k ih => simp [State.loadBlock, ih]

/-- A body that reads no input does the same with any other samples (R33, R34). -/
theorem exec_setInputs {i : Instr} {s t : State} (h : exec i s = .next t) (hr : readsInput i = false) (l : List Input)
    (n : Nat) : exec i (s.setInputs l n) = .next (t.setInputs l n) := by
  cases i
  case skp | sknp | ldVxK | rnd => cases hr
  case ret =>
    obtain ⟨v, idx, pc, stack, _⟩ := s
    cases stack <;> cases h <;> rfl
  case call | drw | ldB | ldMemVx => exact guarded_next_setInputs h l n
  case ldVxMem =>
    simp only [exec, execLdVxMem, State.loadBlock_setInputs]
    exact guarded_next_setInputs h l n
  all_goals cases h; rfl

theorem runs_setInputs {s : State} {i : Instr} (l : List Input) (n : Nat) : Runs (s.setInputs l n) i ↔ Runs s i := Iff.rfl

theorem step_of_halted {s : State} (h : s.halted = true) : step s = .next s := by
  simp [step, runStep, h]

theorem step_of_fetchFault {s : State} (h : s.halted = false) (hpc : 0xFFE < s.pc.toNat) : step s = .next s.raiseFetchFault := by
  simp [step, runStep, h, State.fetch_eq_none.mpr hpc]

/-- An undefined opcode's step is the advance and the tick (R87). -/
theorem step_of_undefined {s : State} {e : Reject} (h : s.halted = false) (hpc : s.pc.toNat ≤ 0xFFE)
    (hd : decodeWord s.params.alias59 (s.wordAt s.pc.toNat) = .error e) : step s = .next s.advance.endStep := by
  have ha : s.advance.halted = false := h
  simp [step, runStep, h, State.fetch_eq_some.mpr ⟨hpc, rfl⟩, runOpcode, hd, finishStep, execUndefined, ha]

/-- Settles O18: each end of a step (`step_cases`) is the same with other samples. -/
theorem inputsReachOnlyTheirReaders : Obligations.InputsReachOnlyTheirReaders := by
  intro s t l n h hreads
  rcases step_cases h with ⟨hh, rfl⟩ | ⟨hh, hpc, rfl⟩ | ⟨hh, hpc, i, u, hd, hu, rfl⟩ | ⟨hh, hpc, ⟨e, hd⟩, rfl⟩
  · exact ⟨l, n, step_of_halted hh⟩
  · exact ⟨l, n, step_of_fetchFault hh hpc⟩
  · have hrun : Runs s i := runs_iff.mpr ⟨hh, hpc, hd⟩
    have hu' := exec_setInputs hu (hreads i hrun) l n
    have hstep := (step_of_runs ((runs_setInputs l n).mpr hrun)).trans (congrArg finishStep hu')
    cases hf : u.halted
    · exact ⟨l.tail, n + 1, hstep.trans (congrArg _ (if_neg (by simp [hf])))⟩
    · exact ⟨l, n, hstep.trans (congrArg _ (if_pos hf))⟩
  · exact ⟨l.tail, n + 1, step_of_undefined hh hpc hd⟩

/-! Reset. -/

/-- Settles O20: at reset nothing is listed in `mem`, nothing is on the stack and no fault is latched. -/
theorem resetMeetsTheInvariant : Obligations.ResetMeetsTheInvariant where
  memory := State.reset_mem_wf
  lowUntouched := fun _ h => nomatch h
  depth := fun d _ => Nat.zero_le d
  returns := fun _ h => nomatch h
  counter := by decide
  running := fun _ => rfl
  stopped := fun h => Bool.noConfusion h

/-- A reset from the reset state changes nothing: one lemma covers both resets (R170). -/
theorem State.resetCore_reset : State.reset.resetCore = State.reset := rfl

theorem State.reg_resetCore (s : State) (r : RegIdx) : s.resetCore.reg r = 0 := by
  simp [State.reg, State.resetCore, State.reset]

/-- After reset every address reads as its reset contents (R35). -/
theorem State.byteAt_resetCore (s : State) (a : Nat) : s.resetCore.byteAt a = resetByte s.params.glyphRom a := rfl

/-- Settles O50: the values of a reset from any state, of which `State.reset` is one. -/
theorem resetStateValues : Obligations.ResetStateValues := by
  intro s t ht
  obtain ⟨r, rfl⟩ : ∃ r : State, t = r.resetCore := by
    rcases ht with rfl | rfl
    · exact ⟨State.reset, State.resetCore_reset.symm⟩
    · exact ⟨s, rfl⟩
  refine ⟨rfl, r.reg_resetCore, rfl, rfl, rfl, rfl, Grid.cell_blank, rfl, fun d j => ?_, fun a _ ha => ?_⟩
  · rw [State.byteAt_resetCore]; exact resetByte_glyph r.params.glyphRom d j
  · rw [State.byteAt_resetCore, resetByte_outside _ ha]

end Sys2Proof.Machine
end

section
/-! PROOFS. The memory family (spec/20_memory.md): the two bytes of a fetch, and what FX55 leaves in `mem`. -/

namespace Sys2Proof

/-! The two bytes of an opcode (R44). -/

@[simp] theorem extractHigh_wordOfBytes (b0 b1 : Byte) : (wordOfBytes b0 b1).extractLsb' 8 8 = b0 := by
  apply BitVec.eq_of_getLsbD_eq
  intro i hi
  simp [getLsbD_wordOfBytes, hi]

@[simp] theorem extractLow_wordOfBytes (b0 b1 : Byte) : (wordOfBytes b0 b1).extractLsb' 0 8 = b1 := by
  apply BitVec.eq_of_getLsbD_eq
  intro i hi
  simp [getLsbD_wordOfBytes, hi]

end Sys2Proof

namespace Sys2Proof.Machine

/-- Settles O8: in range the fetch answers the word at `PC`, and a word taken apart gives back the bytes it was joined from. -/
theorem fetchIsBigEndian : Obligations.FetchIsBigEndian := fun s hpc =>
  ⟨s.wordAt s.pc.toNat, State.fetch_eq_some.mpr ⟨hpc, rfl⟩, extractHigh_wordOfBytes _ _, extractLow_wordOfBytes _ _⟩

/-- A fetch with `PC` set to an address in range, odd or even, reads the word there (R44, R46). -/
theorem State.fetch_withPc (s : State) {a : Nat} (h : a ≤ 0xFFE) :
    ({ s with pc := BitVec.ofNat 16 a } : State).fetch = some (s.wordAt a) := by
  have ha : (BitVec.ofNat 16 a).toNat = a := (BitVec.toNat_ofNat a 16).trans (Nat.mod_eq_of_lt (by omega))
  refine State.fetch_eq_some.mpr ⟨ha.le.trans h, ?_⟩
  show s.wordAt (BitVec.ofNat 16 a).toNat = s.wordAt a
  rw [ha]

/-- FX55 in its range passes its check and stores its block at `I` (R124, R125). -/
theorem exec_ldMemVx_eq {s : State} {x : RegIdx} (hlo : writeBase ≤ s.base) (hhi : s.base + x.val < memSize) :
    exec (.ldMemVx x) s = .next (s.storeBytes s.base (s.block x)) := by
  have hcheck : checkStore s.base (x.val + 1) = none := checkStore_eq_none.mpr ⟨.inr hhi, hlo⟩
  simp [exec, execLdMemVx, hcheck]

/-- After FX55's store the byte at `I + k` is `V[k]` (R125). -/
theorem State.byteAt_storeBytes_block (s : State) (hs : s.mem.Pairwise (fun c d => c.1 < d.1)) (a : Nat) {x k : RegIdx}
    (hk : k ≤ x) : (s.storeBytes a (s.block x)).byteAt (a + k.val) = s.reg k := by
  rw [s.byteAt_storeBytes hs, if_pos (Nat.le_add_right a k.val), Nat.add_sub_cancel_left, List.getD_eq_getElem?_getD,
    s.getElem?_block x k hk, Option.getD_some]

/-- Settles O46: the step runs FX55's store, its tick keeps every byte, and the fetch joins the two stored bytes. -/
theorem storedBytesAreFetched : Obligations.StoredBytesAreFetched := by
  intro s x k hrun ⟨hsorted, _⟩ hlo hhi hk
  have hexec := exec_ldMemVx_eq (s := s.advance) hlo (Nat.lt_succ_of_le hhi)
  obtain ⟨hrunning, -, -⟩ := runs_iff.mp hrun
  refine ⟨_, step_of_exec hrun hexec hrunning, ?_⟩
  have hx := x.isLt
  have hbyte {j : RegIdx} (hj : j ≤ x) := s.advance.byteAt_storeBytes_block hsorted s.base hj
  rw [State.fetch_withPc _ (by omega)]
  exact congrArg some (congrArg₂ wordOfBytes (hbyte (Fin.le_def.mpr (by omega))) (hbyte (j := ⟨k.val + 1, _⟩) hk))

end Sys2Proof.Machine
end

section
/-! PROOFS. The encoding family (spec/30_encoding.md): the decoder on an encoded instruction and on an undefined opcode, what
every other opcode reads back as, and the rows of the opcode table. -/

namespace Sys2Proof

open Laws

/-! Decoding what `encode` gives (R61 to R64). -/

/-- The decoder reads two stored bytes as one big-endian word and leaves the rest (R44, R60). -/
theorem decode_bytesOfWord_append {alias59 : Bool} {op : Word} {i : Instr} (h : decodeWord alias59 op = .ok i)
    (rest : List Byte) : decode alias59 (bytesOfWord op ++ rest) = .ok (i, rest) := by
  simp [bytesOfWord, decode, h]

/-- The formats' field lemmas lead the decoder to the constructor; only the row count of DXYN needs its bound (R63). -/
theorem decodeWord_encode (alias59 : Bool) (i : Instr) (h : i.wellFormed = true) :
    decodeWord alias59 (encode i) = .ok i := by
  cases i with
  | cls => cases alias59 <;> rfl
  | ret => cases alias59 <;> rfl
  | drw x y n =>
    have hn : n ≤ 15 := of_decide_eq_true h
    have hmod : n % 16 = n := Nat.mod_eq_of_lt (by omega)
    simp [encode, decodeWord, hmod]
  | _ => simp [encode, decodeWord, decodeRegSkip, decodeFamily8, decodeFamilyE, decodeFamilyF]

/-- Settles O1: the bytes join to the encoding again, and the decoder reads its fields. -/
theorem decodeOfEncodeIsIdentity : Obligations.DecodeOfEncodeIsIdentity := fun alias59 i rest h =>
  decode_bytesOfWord_append (decodeWord_encode alias59 i h) rest

/-! An opcode from its known fields (R61, R62). -/

theorem formatNNN_of_fields {op : Word} {f : BitVec 4} {nnn : Addr12} (hF : fieldF op = f) (hNNN : fieldNNN op = nnn) :
    formatNNN f nnn = op := by
  subst hF hNNN
  exact (word_eq_formatNNN op).symm

theorem formatXNN_of_fields {op : Word} {f : BitVec 4} {nn : Byte} (hF : fieldF op = f) (hNN : fieldNN op = nn) :
    formatXNN f (fieldX op) nn = op := by
  subst hF hNN
  exact (word_eq_formatXNN op).symm

theorem formatXYN_of_fields {op : Word} {f n : BitVec 4} (hF : fieldF op = f) (hN : fieldN op = n) :
    formatXYN f (fieldX op) (fieldY op) n = op := by
  subst hF hN
  exact (word_eq_formatXYN op).symm

/-! Undefined opcodes (R66), with `ALIAS_5_9` false. -/

/-- The values of `N` that select no instruction in family 0x8. -/
abbrev family8UndefinedN : List (BitVec 4) := [0x8, 0x9, 0xA, 0xB, 0xC, 0xD, 0xF]

/-- The values of `NN` that select an instruction in family 0xF. -/
abbrev familyFDefinedNN : List Byte := [0x07, 0x0A, 0x15, 0x18, 0x1E, 0x29, 0x33, 0x55, 0x65]

/-- The conditions of R66's table of undefined opcodes. -/
def UndefinedOpcode (op : Word) : Prop :=
  (fieldF op = 0x0 ∧ fieldNNN op ≠ 0x0E0 ∧ fieldNNN op ≠ 0x0EE) ∨
  (fieldF op = 0x5 ∧ fieldN op ≠ 0) ∨
  (fieldF op = 0x8 ∧ fieldN op ∈ family8UndefinedN) ∨
  (fieldF op = 0x9 ∧ fieldN op ≠ 0) ∨
  (fieldF op = 0xE ∧ fieldNN op ≠ 0x9E ∧ fieldNN op ≠ 0xA1) ∨
  (fieldF op = 0xF ∧ fieldNN op ∉ familyFDefinedNN)

theorem decodeRegSkip_of_fieldN_eq_zero {op : Word} (hN : fieldN op = 0) (alias59 : Bool) (i : Instr) :
    decodeRegSkip alias59 i op = .ok i := by
  simp [decodeRegSkip, hN]

theorem decodeRegSkip_false_of_fieldN_ne_zero {op : Word} (hN : fieldN op ≠ 0) (i : Instr) :
    decodeRegSkip false i op = .error (.undefinedOpcode op) := by
  simpa [decodeRegSkip] using hN

theorem decodeFamily0_of_undefined {op : Word} (hcls : fieldNNN op ≠ 0x0E0) (hret : fieldNNN op ≠ 0x0EE) :
    decodeFamily0 op = .error (.undefinedOpcode op) := by
  rw [decodeFamily0, if_neg hcls, if_neg hret]

theorem decodeFamily8_of_undefined {op : Word} (hN : fieldN op ∈ family8UndefinedN) :
    decodeFamily8 op = .error (.undefinedOpcode op) := by
  simp only [List.mem_cons, List.not_mem_nil, or_false] at hN
  rcases hN with h | h | h | h | h | h | h <;> simp [decodeFamily8, h]

theorem decodeFamilyE_of_undefined {op : Word} (hskp : fieldNN op ≠ 0x9E) (hsknp : fieldNN op ≠ 0xA1) :
    decodeFamilyE op = .error (.undefinedOpcode op) := by
  rw [decodeFamilyE, if_neg hskp, if_neg hsknp]

theorem decodeFamilyF_of_undefined {op : Word} (hNN : fieldNN op ∉ familyFDefinedNN) :
    decodeFamilyF op = .error (.undefinedOpcode op) := by
  unfold decodeFamilyF
  split
  case h_10 => rfl
  all_goals exact absurd (by simp [*]) hNN

theorem decodeWord_of_undefined {op : Word} (h : UndefinedOpcode op) :
    decodeWord false op = .error (.undefinedOpcode op) := by
  rcases h with ⟨hF, hcls, hret⟩ | ⟨hF, hN⟩ | ⟨hF, hN⟩ | ⟨hF, hN⟩ | ⟨hF, hskp, hsknp⟩ | ⟨hF, hNN⟩
  · simp [decodeWord, hF, decodeFamily0_of_undefined hcls hret]
  · simp [decodeWord, hF, decodeRegSkip_false_of_fieldN_ne_zero hN]
  · simp [decodeWord, hF, decodeFamily8_of_undefined hN]
  · simp [decodeWord, hF, decodeRegSkip_false_of_fieldN_ne_zero hN]
  · simp [decodeWord, hF, decodeFamilyE_of_undefined hskp hsknp]
  · simp [decodeWord, hF, decodeFamilyF_of_undefined hNN]

/-! Every other opcode reads back as a well-formed instruction that encodes to it. -/

/-- The result `r` of decoding `op` is a well-formed instruction whose encoding is `op`. -/
def ReadsBack (op : Word) (r : Except Reject Instr) : Prop := ∃ i, r = .ok i ∧ i.wellFormed = true ∧ encode i = op

theorem decodeFamily0_readsBack {op : Word} (hF : fieldF op = 0x0)
    (hNNN : fieldNNN op = 0x0E0 ∨ fieldNNN op = 0x0EE) : ReadsBack op (decodeFamily0 op) := by
  rcases hNNN with h | h
  · exact ⟨.cls, by simp [decodeFamily0, h], rfl, formatNNN_of_fields hF h⟩
  · exact ⟨.ret, by simp [decodeFamily0, h], rfl, formatNNN_of_fields hF h⟩

theorem decodeFamily8_readsBack {op : Word} (hF : fieldF op = 0x8) (hN : fieldN op ∉ family8UndefinedN) :
    ReadsBack op (decodeFamily8 op) := by
  unfold decodeFamily8
  split
  case h_10 =>
    exfalso
    generalize fieldN op = n at *
    revert n
    decide
  all_goals exact ⟨_, rfl, rfl, formatXYN_of_fields hF ‹_›⟩

theorem decodeFamilyE_readsBack {op : Word} (hF : fieldF op = 0xE) (hNN : fieldNN op = 0x9E ∨ fieldNN op = 0xA1) :
    ReadsBack op (decodeFamilyE op) := by
  rcases hNN with h | h
  · exact ⟨.skp (fieldX op), by simp [decodeFamilyE, h], rfl, formatXNN_of_fields hF h⟩
  · exact ⟨.sknp (fieldX op), by simp [decodeFamilyE, h], rfl, formatXNN_of_fields hF h⟩

theorem decodeFamilyF_readsBack {op : Word} (hF : fieldF op = 0xF) (hNN : fieldNN op ∈ familyFDefinedNN) :
    ReadsBack op (decodeFamilyF op) := by
  unfold decodeFamilyF
  split
  case h_10 => simp_all
  all_goals exact ⟨_, rfl, rfl, formatXNN_of_fields hF ‹_›⟩

/-- The dispatch of R65, family by family: case `h_k` is the family `k - 1`, and `h_17` is no value of `F`. -/
theorem decodeWord_readsBack {op : Word} (h : ¬UndefinedOpcode op) : ReadsBack op (decodeWord false op) := by
  unfold UndefinedOpcode at h
  push Not at h
  obtain ⟨h0, h5, h8, h9, hE, hFF⟩ := h
  unfold decodeWord
  split
  case h_1 hF => exact decodeFamily0_readsBack hF (or_iff_not_imp_left.mpr (h0 hF))
  case h_6 hF =>
    rw [decodeRegSkip_of_fieldN_eq_zero (h5 hF)]
    exact ⟨_, rfl, rfl, formatXYN_of_fields hF (h5 hF)⟩
  case h_9 hF => exact decodeFamily8_readsBack hF (h8 hF)
  case h_10 hF =>
    rw [decodeRegSkip_of_fieldN_eq_zero (h9 hF)]
    exact ⟨_, rfl, rfl, formatXYN_of_fields hF (h9 hF)⟩
  case h_14 hF =>
    have hn : rowCountFits (fieldN op).toNat = true := decide_eq_true (Nat.le_of_lt_succ (fieldN op).isLt)
    exact ⟨_, rfl, hn, formatXYN_of_fields hF (by simp)⟩
  case h_15 hF => exact decodeFamilyE_readsBack hF (or_iff_not_imp_left.mpr (hE hF))
  case h_16 hF => exact decodeFamilyF_readsBack hF (hFF hF)
  case h_2 | h_3 | h_11 | h_12 => exact ⟨_, rfl, rfl, formatNNN_of_fields ‹_› rfl⟩
  case h_4 | h_5 | h_7 | h_8 | h_13 => exact ⟨_, rfl, rfl, formatXNN_of_fields ‹_› rfl⟩
  case h_17 =>
    exfalso
    clear h0 h5 h8 h9 hE hFF
    generalize fieldF op = f at *
    revert f
    decide

/-- Settles O4: each condition of R66 leads the decoder to its rejection, and without one it reads an instruction. -/
theorem undefinedOpcodesAreThoseListed : Obligations.UndefinedOpcodesAreThoseListed := fun _ =>
  ⟨decodeWord_of_undefined, fun h => (decodeWord_readsBack h).imp fun _ hi => hi.1⟩

/-- Settles O2: an opcode that decodes is not undefined, so it reads back. -/
theorem encodeOfDecodeIsIdentity : Obligations.EncodeOfDecodeIsIdentity := by
  intro op i h
  by_cases hu : UndefinedOpcode op
  · rw [decodeWord_of_undefined hu] at h
    cases h
  · obtain ⟨j, hj, hwf, henc⟩ := decodeWord_readsBack hu
    obtain rfl : j = i := Except.ok.inj (hj.symm.trans h)
    exact ⟨hwf, henc⟩

/-! The opcode table (R64). -/

theorem fieldF_and (a b : Word) : fieldF (a &&& b) = fieldF a &&& fieldF b := BitVec.extractLsb'_and
theorem fieldN_and (a b : Word) : fieldN (a &&& b) = fieldN a &&& fieldN b := BitVec.extractLsb'_and
theorem fieldNN_and (a b : Word) : fieldNN (a &&& b) = fieldNN a &&& fieldNN b := BitVec.extractLsb'_and
theorem fieldNNN_and (a b : Word) : fieldNNN (a &&& b) = fieldNNN a &&& fieldNNN b := BitVec.extractLsb'_and

theorem rowOf_mem_opcodeTable (i : Instr) : rowOf i ∈ opcodeTable := by
  cases i <;> simp [rowOf, opcodeTable]

/-- The per-instruction laws of `EncodeRow`, for every instruction. -/
theorem encode_and_rowOf_mask : ∀ i : Instr, EncodeRow.Statement i
  | .cls => EncodeRow.cls | .ret => EncodeRow.ret | .jp a => EncodeRow.jp a | .call a => EncodeRow.call a
  | .seImm x b => EncodeRow.seImm x b | .sneImm x b => EncodeRow.sneImm x b | .seReg x y => EncodeRow.seReg x y
  | .ldImm x b => EncodeRow.ldImm x b | .addImm x b => EncodeRow.addImm x b | .ldReg x y => EncodeRow.ldReg x y
  | .orReg x y => EncodeRow.orReg x y | .andReg x y => EncodeRow.andReg x y | .xorReg x y => EncodeRow.xorReg x y
  | .addReg x y => EncodeRow.addReg x y | .subReg x y => EncodeRow.subReg x y | .shr x y => EncodeRow.shr x y
  | .subnReg x y => EncodeRow.subnReg x y | .shl x y => EncodeRow.shl x y | .sneReg x y => EncodeRow.sneReg x y
  | .ldI a => EncodeRow.ldI a | .jpV0 a => EncodeRow.jpV0 a | .rnd x b => EncodeRow.rnd x b
  | .drw x y n => EncodeRow.drw x y n | .skp x => EncodeRow.skp x | .sknp x => EncodeRow.sknp x
  | .ldVxDt x => EncodeRow.ldVxDt x | .ldVxK x => EncodeRow.ldVxK x | .ldDtVx x => EncodeRow.ldDtVx x
  | .ldStVx x => EncodeRow.ldStVx x | .addI x => EncodeRow.addI x | .ldF x => EncodeRow.ldF x | .ldB x => EncodeRow.ldB x
  | .ldMemVx x => EncodeRow.ldMemVx x | .ldVxMem x => EncodeRow.ldVxMem x

/-- What decodes matches the row of its instruction. -/
theorem and_rowOf_mask_of_decodeWord {op : Word} {i : Instr} (h : decodeWord false op = .ok i) :
    op &&& (rowOf i).mask = (rowOf i).pattern := by
  obtain ⟨hwf, rfl⟩ := encodeOfDecodeIsIdentity op i h
  exact encode_and_rowOf_mask i hwf

/-- Two rows whose patterns agree on the bits both masks cover are one row. -/
theorem opcodeTable_disjoint : ∀ r ∈ opcodeTable, ∀ q ∈ opcodeTable,
    r.pattern &&& q.mask = q.pattern &&& r.mask → r = q := by
  decide

theorem row_unique_of_matches {op : Word} {r q : Row} (hr : r ∈ opcodeTable) (hq : q ∈ opcodeTable)
    (hrop : op &&& r.mask = r.pattern) (hqop : op &&& q.mask = q.pattern) : r = q := by
  apply opcodeTable_disjoint r hr q hq
  rw [← hrop, ← hqop, BitVec.and_assoc, BitVec.and_assoc, BitVec.and_comm r.mask]

/-- A row's mask covers `F` and the field that selects within the row's family (R65). -/
theorem opcodeTable_masks : ∀ r ∈ opcodeTable, fieldF r.mask = 0xF ∧
    (fieldF r.pattern = 0x0 → fieldNNN r.mask = 0xFFF) ∧
    (fieldF r.pattern = 0x5 ∨ fieldF r.pattern = 0x8 ∨ fieldF r.pattern = 0x9 → fieldN r.mask = 0xF) ∧
    (fieldF r.pattern = 0xE ∨ fieldF r.pattern = 0xF → fieldNN r.mask = 0xFF) := by
  decide

theorem opcodeTable_patterns_defined : ∀ r ∈ opcodeTable, ¬UndefinedOpcode r.pattern := by
  unfold UndefinedOpcode
  decide

/-- An opcode that matches a row has the pattern's selecting fields, so it is as defined as the pattern. -/
theorem not_undefinedOpcode_of_matches {op : Word} {r : Row} (hr : r ∈ opcodeTable) (h : op &&& r.mask = r.pattern) :
    ¬UndefinedOpcode op := by
  intro hu
  apply opcodeTable_patterns_defined r hr
  obtain ⟨mF, mNNN, mN, mNN⟩ := opcodeTable_masks r hr
  have hF : fieldF r.pattern = fieldF op := by rw [← h, fieldF_and, mF]; exact BitVec.and_allOnes
  rw [hF] at mNNN mN mNN
  have hNNN (hf : fieldF op = 0x0) : fieldNNN r.pattern = fieldNNN op := by
    rw [← h, fieldNNN_and, mNNN hf]; exact BitVec.and_allOnes
  have hN (hf : fieldF op = 0x5 ∨ fieldF op = 0x8 ∨ fieldF op = 0x9) : fieldN r.pattern = fieldN op := by
    rw [← h, fieldN_and, mN hf]; exact BitVec.and_allOnes
  have hNN (hf : fieldF op = 0xE ∨ fieldF op = 0xF) : fieldNN r.pattern = fieldNN op := by
    rw [← h, fieldNN_and, mNN hf]; exact BitVec.and_allOnes
  unfold UndefinedOpcode at hu ⊢
  rw [hF]
  refine hu.imp ?_ (.imp ?_ (.imp ?_ (.imp ?_ (.imp ?_ ?_))))
  · exact fun ⟨hf, hsel⟩ => ⟨hf, by rwa [hNNN hf]⟩
  · exact fun ⟨hf, hsel⟩ => ⟨hf, by rwa [hN (.inl hf)]⟩
  · exact fun ⟨hf, hsel⟩ => ⟨hf, by rwa [hN (.inr (.inl hf))]⟩
  · exact fun ⟨hf, hsel⟩ => ⟨hf, by rwa [hN (.inr (.inr hf))]⟩
  · exact fun ⟨hf, hsel⟩ => ⟨hf, by rwa [hNN (.inl hf)]⟩
  · exact fun ⟨hf, hsel⟩ => ⟨hf, by rwa [hNN (.inr hf)]⟩

/-- Settles O3: a matched opcode is defined, and the row of what it decodes to is the only row it matches. -/
theorem decoderFollowsOpcodeTable : Obligations.DecoderFollowsOpcodeTable := by
  refine fun op => ⟨fun r hr hmatch => ?_, fun i hi => ⟨rowOf_mem_opcodeTable i, and_rowOf_mask_of_decodeWord hi⟩⟩
  obtain ⟨i, hi, -⟩ := decodeWord_readsBack (not_undefinedOpcode_of_matches hr hmatch)
  exact ⟨i, hi, row_unique_of_matches (rowOf_mem_opcodeTable i) hr (and_rowOf_mask_of_decodeWord hi) hmatch⟩

/-! The parameter `ALIAS_5_9` (R67, D12). -/

/-- Only `decodeRegSkip` reads the parameter, and with `N = 0` it answers the same for both values. -/
theorem decodeWord_true_eq_false {op : Word} (h : ¬((fieldF op = 0x5 ∨ fieldF op = 0x9) ∧ fieldN op ≠ 0)) :
    decodeWord true op = decodeWord false op := by
  have hN (hF : fieldF op = 0x5 ∨ fieldF op = 0x9) : fieldN op = 0 := not_not.mp (not_and.mp h hF)
  unfold decodeWord
  split
  case h_6 hF => simp only [decodeRegSkip_of_fieldN_eq_zero (hN (.inl hF))]
  case h_10 hF => simp only [decodeRegSkip_of_fieldN_eq_zero (hN (.inr hF))]
  all_goals rfl

/-- Settles O5: with the parameter set `decodeRegSkip` accepts every `N`. -/
theorem aliasParameterChangesOnly5And9 : Obligations.AliasParameterChangesOnly5And9 := fun op =>
  ⟨fun hF _ => by simp [decodeWord, hF, decodeRegSkip], fun hF _ => by simp [decodeWord, hF, decodeRegSkip],
    decodeWord_true_eq_false⟩

/-- Settles O6: the decoder run on the ten fixed words. -/
theorem specWordsDecodeAsListed : Obligations.SpecWordsDecodeAsListed := by
  unfold Obligations.SpecWordsDecodeAsListed
  decide

end Sys2Proof
end

section
/-! PROOFS. The step-cycle family (spec/40_step_cycle.md): when a body faults, what a step that faults and a step that does
not leave, and the obligations on halted cores, precise faults, the tick and the whole step. -/

namespace Sys2Proof.Machine

/-! The checks of the bodies are R151's table (`faultOf`). -/

theorem checkLoad_succ (a k : Nat) :
    checkLoad a (k + 1) = if 0xFFF < a + k then some (.readRange, a + k) else none := by
  simp [checkLoad, ← Nat.add_assoc]

theorem checkStore_succ (a k : Nat) :
    checkStore a (k + 1) =
      if 0xFFF < a + k then some (.writeRange, a + k) else if a < 0x200 then some (.writeProtect, a) else none := by
  simp [checkStore, ← Nat.add_assoc]

theorem faultOf_ldVxMem (x : RegIdx) (s : State) : faultOf (.ldVxMem x) s = checkLoad s.base (x.val + 1) :=
  (checkLoad_succ _ _).symm

theorem faultOf_ldMemVx (x : RegIdx) (s : State) : faultOf (.ldMemVx x) s = checkStore s.base (x.val + 1) :=
  (checkStore_succ _ _).symm

theorem faultOf_ldB (x : RegIdx) (s : State) : faultOf (.ldB x) s = checkStore s.base 3 := (checkStore_succ _ 2).symm

/-- The stack is full when it has a depth and `SP` has reached it (R28, D8). -/
theorem State.stackFull_iff (s : State) : s.stackFull = true ↔ ∃ d ∈ s.params.stackDepth, d ≤ s.sp := by
  unfold State.stackFull
  split <;> rename_i h <;> simp [h]

/-- A guarded body takes the fault its check names, or passes the check and leaves the fault record alone. -/
theorem guarded_next_faultRec {check : Option (Cause × Nat)} {s t u : State}
    (h : (.next (s.guarded check u) : Result) = .next t) (hu : u.faultRec = s.faultRec) :
    (∃ c n, check = some (c, n) ∧ t = s.raiseFault c n) ∨ (check = none ∧ t.faultRec = s.faultRec) := by
  injection h with h
  subst h
  rcases s.guarded_cases u check with ⟨e, e'⟩ | ⟨c, n, e, e'⟩ <;> rw [e']
  · exact .inr ⟨e, hu⟩
  · exact .inl ⟨c, n, e, rfl⟩

/-- A body takes the fault that R151's table names for it, or the table names none and the fault record stays (R85, R151). -/
theorem exec_faultOf_cases {i : Instr} {s t : State} (h : exec i s = .next t) :
    (∃ c n, faultOf i s = some (c, n) ∧ t = s.raiseFault c n) ∨ (faultOf i s = none ∧ t.faultRec = s.faultRec) := by
  cases i
  case ret =>
    simp only [exec, execRet] at h
    split at h <;> cases h
    next hstack => exact .inl ⟨_, _, by simp [faultOf, State.sp, hstack], rfl⟩
    next hstack => exact .inr ⟨by simp [faultOf, State.sp, hstack], rfl⟩
  case call nnn =>
    simp only [faultOf, ← s.stackFull_iff]
    exact guarded_next_faultRec h rfl
  case skp | sknp | drw => exact guarded_next_faultRec h rfl
  case ldVxMem | ldMemVx | ldB =>
    simp only [faultOf_ldVxMem, faultOf_ldMemVx, faultOf_ldB]
    exact guarded_next_faultRec h rfl
  all_goals cases h; exact .inr ⟨rfl, rfl⟩

/-- No instruction's body has the cause "no fault" or the cause of a fetch (R151). -/
theorem faultOf_cause {i : Instr} {s : State} {c : Cause} {n : Nat} (h : faultOf i s = some (c, n)) :
    c ≠ .none ∧ c ≠ .fetchRange := by
  cases i <;> simp only [faultOf] at h
  case ret | call | drw | ldVxMem | skp | sknp => split at h <;> cases h; decide
  case ldMemVx | ldB =>
    split at h
    · cases h; decide
    · split at h <;> cases h; decide
  all_goals cases h

/-! The two ends of a step of a running core. -/

/-- A step that halts the core is fault entry at its own `PC`: of the fetch, with no opcode, or of the body, with the opcode
there and a cause that is not the fetch's (R81, R85, R153). -/
theorem step_halting_cases {s t : State} (hs : s.halted = false) (h : step s = .next t) (ht : t.halted = true) :
    t = s.latchFault .fetchRange s.pc 0x0000 s.pc.toNat ∨
    ∃ c n, c ≠ .none ∧ c ≠ .fetchRange ∧ t = s.latchFault c s.pc (s.wordAt s.pc.toNat) n := by
  rcases step_cases h with ⟨hh, -⟩ | ⟨-, -, rfl⟩ | ⟨-, -, i, u, -, hu, rfl⟩ | ⟨-, -, -, rfl⟩
  · exact absurd (hs.symm.trans hh) Bool.false_ne_true
  · exact .inl rfl
  · rcases exec_faultOf_cases hu with ⟨c, n, hfault, rfl⟩ | ⟨-, hrec⟩
    · obtain ⟨hnone, hfetch⟩ := faultOf_cause hfault
      exact .inr ⟨c, n, hnone, hfetch, s.raiseFault_advance c n⟩
    · have hrunning : u.halted = false := (congrArg FaultRecord.fault hrec).trans hs
      simp [hrunning] at ht
  · exact absurd (hs.symm.trans ht) Bool.false_ne_true

/-- A step that leaves the core running is a body and then the end of the step. The body keeps every component but `PC` that
its instruction, if there is one, does not write (R82, R86, R87). -/
theorem step_running_keeps {s t : State} (hs : s.halted = false) (h : step s = .next t) (ht : t.halted = false) :
    ∃ u, t = u.endStep ∧ ∀ p, p ≠ .pc → (∀ i, Runs s i → p ∉ writtenParts i) → p.kept s u := by
  have hadvance {p : Part} (hp : p ≠ .pc) : p.kept s s.advance := s.advance_keeps p (by simpa using hp)
  rcases step_cases h with ⟨hh, -⟩ | ⟨-, -, rfl⟩ | ⟨-, hpc, i, u, hd, hu, rfl⟩ | ⟨-, -, -, rfl⟩
  · exact absurd (hs.symm.trans hh) Bool.false_ne_true
  · cases ht
  · cases hf : u.halted
    · have hrun : Runs s i := runs_iff.mpr ⟨hs, hpc, hd⟩
      exact ⟨u, rfl, fun p hp hw => Part.kept_trans (hadvance hp) (exec_keeps hu hf p (hw i hrun))⟩
    · simp [hf] at ht
  · exact ⟨s.advance, rfl, fun p hp _ => hadvance hp⟩

/-! A run. -/

/-- A run whose first step answers `t` goes on from `t`. -/
theorem run_succ {s t : State} (h : step s = .next t) (k : Nat) :
    Host.Core.run Sys2Proof.core (k + 1) s = Host.Core.run Sys2Proof.core k t := by
  have hstep : Sys2Proof.core.step s = .next t := h
  simp only [Host.Core.run, hstep]

/-! The timers (R30, R31). -/

theorem delay_mem_writtenParts {i : Instr} : Part.delay ∈ writtenParts i ↔ ∃ x, i = .ldDtVx x := by
  cases i <;> simp [writtenParts]

theorem sound_mem_writtenParts {i : Instr} : Part.sound ∈ writtenParts i ↔ ∃ x, i = .ldStVx x := by
  cases i <;> simp [writtenParts]

/-! The obligations. -/

/-- Settles O11, by induction on the number of steps, each of which answers the same state. -/
theorem haltedCoreStaysAsItIs : Obligations.HaltedCoreStaysAsItIs := by
  intro k s hs
  induction k with
  | zero => rfl
  | succ k ih => exact (run_succ (step_of_halted hs) k).trans ih

/-- Settles O13: a step that halts the core is fault entry, of the fetch or of the body. -/
theorem faultingStepIsPrecise : Obligations.FaultingStepIsPrecise := by
  intro s t hs h ht
  rcases step_halting_cases hs h ht with rfl | ⟨c, n, hnone, hfetch, rfl⟩
  · exact ⟨.fetchRange, s.pc.toNat, by decide, s.latchFault_taken _ _ _ _⟩
  · refine ⟨c, n, hnone, ?_⟩
    rw [if_neg hfetch]
    exact s.latchFault_taken _ _ _ _

/-- Settles O15: the tick is that of the timers the body leaves, and only FX15 and FX18 write one of them. -/
theorem timersTickOncePerStep : Obligations.TimersTickOncePerStep := by
  intro s t hs h ht
  obtain ⟨u, rfl, hkeep⟩ := step_running_keeps hs h ht
  refine ⟨fun hno => ?_, fun x hrun => ?_, fun hno => ?_, fun x hrun => ?_⟩
  · have hdt : u.dt = s.dt := hkeep .delay (by decide) fun i hrun hw => by
      obtain ⟨x, rfl⟩ := delay_mem_writtenParts.mp hw
      exact hno x hrun
    rw [State.endStep_dt, tick_toNat, hdt]
  · rw [step_of_exec hrun (u := s.advance.setDt (s.reg x)) rfl hs] at h
    injection h with h
    rw [← h, State.endStep_dt, tick_toNat, State.setDt_dt]
  · have hst : u.st = s.st := hkeep .sound (by decide) fun i hrun hw => by
      obtain ⟨x, rfl⟩ := sound_mem_writtenParts.mp hw
      exact hno x hrun
    rw [State.endStep_st, tick_toNat, hst]
  · rw [step_of_exec hrun (u := s.advance.setSt (s.reg x)) rfl hs] at h
    injection h with h
    rw [← h, State.endStep_st, tick_toNat, State.setSt_st]

/-- Settles O7: the step of a decoded instruction is its body under `finishStep`. -/
theorem stepRunsTheDecodedInstruction : Obligations.StepRunsTheDecodedInstruction := by
  intro s i hrun
  obtain ⟨u, hu⟩ := exec_next i s.advance
  refine ⟨u, hu, fun hhalted => ?_, step_of_exec hrun hu⟩
  rw [step_of_runs hrun, hu, finishStep, if_pos hhalted]

/-- Settles O9: the step is the advance, which writes `PC`, and the end of the step, which ticks. -/
theorem undefinedOpcodeStepIsNoOp : Obligations.UndefinedOpcodeStepIsNoOp := by
  intro s op hs hfetch hd
  obtain ⟨hpc, rfl⟩ := State.fetch_eq_some.mp hfetch
  exact ⟨_, step_of_undefined hs hpc hd, rfl, s.advance.endStep_ticks, s.advance_keeps.append s.advance.endStep_keeps⟩

/-- Settles O10: the step is fault entry of the fetch. -/
theorem fetchOutOfRangeFaults : Obligations.FetchOutOfRangeFaults := fun s hs hpc =>
  ⟨_, step_of_fetchFault hs hpc, s.latchFault_taken _ _ _ _⟩

/-- Settles O12: a halted core, a fetch out of range, an instruction and an undefined opcode each have their next state. -/
theorem everyStepAnswersNext : Obligations.EveryStepAnswersNext := by
  intro s
  cases hs : s.halted
  case true => exact ⟨s, step_of_halted hs⟩
  case false =>
    by_cases hpc : 0xFFE < s.pc.toNat
    · exact ⟨_, step_of_fetchFault hs hpc⟩
    · have hpc := Nat.le_of_not_lt hpc
      rcases hd : decodeWord s.params.alias59 (s.wordAt s.pc.toNat) with e | i
      · exact ⟨_, step_of_undefined hs hpc hd⟩
      · obtain ⟨u, hu⟩ := exec_next i s.advance
        exact ⟨_, (step_of_runs (runs_iff.mpr ⟨hs, hpc, hd⟩)).trans (finishStep_eq_next.mpr ⟨u, hu, rfl⟩)⟩

end Sys2Proof.Machine
end

section
/-! PROOFS. The control-flow family (spec/41_control_flow.md): what the bodies of jumps, calls and returns answer, a step of
2NNN and of 00EE, and the obligations on jumps, calls, returns and skips. -/

namespace Sys2Proof.Machine

/-! Jump targets (R91 to R93). -/

@[simp] theorem addrOf_toNat (nnn : Addr12) : (addrOf nnn).toNat = nnn.toNat :=
  BitVec.toNat_setWidth_of_le (by decide)

/-- BNNN's sum fits the 16-bit `PC`, so nothing of it is lost (R93, D14). -/
theorem jpV0_target_toNat (b : Byte) (nnn : Addr12) :
    (BitVec.ofNat 16 (b.toNat + nnn.toNat)).toNat = b.toNat + nnn.toNat := by
  have := b.isLt
  have := nnn.isLt
  exact (BitVec.toNat_ofNat _ 16).trans (Nat.mod_eq_of_lt (by omega))

/-- Settles O29: both bodies only set `PC`, to a number that its 16 bits hold. -/
theorem jumpTargets : Obligations.JumpTargets := fun s nnn =>
  ⟨⟨_, rfl, addrOf_toNat nnn, s.setPc_keeps _⟩, ⟨_, rfl, jpV0_target_toNat _ nnn, s.setPc_keeps _⟩⟩

/-- Settles O34: each body is `skipIf` on the test that decides its condition. -/
theorem skipsAddExactlyTwo : Obligations.SkipsAddExactlyTwo := fun s _ _ _ =>
  ⟨⟨_, rfl, s.skipIf_skips beq_iff_eq⟩, ⟨_, rfl, s.skipIf_skips bne_iff_ne⟩,
    ⟨_, rfl, s.skipIf_skips beq_iff_eq⟩, ⟨_, rfl, s.skipIf_skips bne_iff_ne⟩⟩

/-! The bodies of 2NNN and 00EE (R90, R92). -/

theorem State.stackFull_eq_false {s : State} (h : ∀ d, s.params.stackDepth = some d → s.sp < d) : s.stackFull = false :=
  Bool.eq_false_iff.mpr fun hfull =>
    have ⟨d, hd, hle⟩ := s.stackFull_iff.mp hfull
    absurd hle (h d hd).not_ge

theorem exec_call_of_room {s : State} (h : ∀ d, s.params.stackDepth = some d → s.sp < d) (nnn : Addr12) :
    exec (.call nnn) s = .next ((s.setStack (s.pc :: s.stack)).setPc (addrOf nnn)) := by
  simp [exec, execCall, State.stackFull_eq_false h]

theorem exec_ret_of_cons {s : State} {e : Word} {rest : List Word} (h : s.stack = e :: rest) :
    exec .ret s = .next ((s.setStack rest).setPc e) := by
  simp only [exec, execRet, h]

theorem exec_ret_of_nil {s : State} (h : s.stack = []) :
    exec .ret s = .next (s.raiseFault .stackUnderflow s.pc0.toNat) := by
  simp only [exec, execRet, h]

/-- Settles O30: the body with room passes its check. -/
theorem callPushesTheReturnAddress : Obligations.CallPushesTheReturnAddress := fun s nnn hroom =>
  ⟨_, exec_call_of_room hroom nnn, addrOf_toNat nnn, rfl, s.setStack_setPc_keeps _ _⟩

/-- Settles O31: the body's match on the stack takes its second arm. -/
theorem returnPopsTheLatestEntry : Obligations.ReturnPopsTheLatestEntry := fun s _ _ hstack =>
  ⟨_, exec_ret_of_cons hstack, rfl, rfl, s.setStack_setPc_keeps _ _⟩

/-! The steps of 2NNN and 00EE. -/

/-- The state after a step whose body leaves the stack `l` and `PC = w`: the advance, the body and the tick. -/
def State.stackStep (s : State) (l : List Word) (w : Word) : State := ((s.advance.setStack l).setPc w).endStep

section
variable (s : State) (l : List Word) (w : Word)

@[simp] theorem State.stackStep_pc : (s.stackStep l w).pc = w := rfl
@[simp] theorem State.stackStep_stack : (s.stackStep l w).stack = l := rfl
@[simp] theorem State.stackStep_halted : (s.stackStep l w).halted = s.halted := rfl
@[simp] theorem State.stackStep_wordAt (a : Nat) : (s.stackStep l w).wordAt a = s.wordAt a := rfl

theorem State.stackStep_ticks : TimersTicked s (s.stackStep l w) := State.endStep_ticks _

theorem State.stackStep_keeps : KeepsAllBut [.pc, .stack, .delay, .sound, .input] s (s.stackStep l w) :=
  ((s.advance_keeps.append (s.advance.setStack_setPc_keeps l w)).append (State.endStep_keeps _)).mono (by decide)

end

theorem Runs.running {s : State} {i : Instr} (h : Runs s i) : s.halted = false := h.1

theorem step_call_of_room {s : State} {nnn : Addr12} (h : Runs s (.call nnn))
    (hroom : ∀ d, s.params.stackDepth = some d → s.sp < d) :
    step s = .next (s.stackStep ((s.pc + 2) :: s.stack) (addrOf nnn)) :=
  step_of_exec h (exec_call_of_room (s := s.advance) hroom nnn) h.running

theorem step_ret_of_cons {s : State} {e : Word} {rest : List Word} (h : Runs s .ret) (hstack : s.stack = e :: rest) :
    step s = .next (s.stackStep rest e) :=
  step_of_exec h (exec_ret_of_cons (s := s.advance) hstack) h.running

/-- The word 0x00EE runs as 00EE under either setting of `ALIAS_5_9` (R64, R67). -/
theorem runs_ret {s : State} (h : s.halted = false) (hpc : s.pc.toNat ≤ 0xFFE) (hop : s.wordAt s.pc.toNat = 0x00EE) :
    Runs s .ret :=
  runs_iff.mpr ⟨h, hpc, hop ▸ decodeWord_encode s.params.alias59 .ret rfl⟩

/-- Settles O32: the body's match on the stack chooses between the pop with its tick and the fault. -/
theorem returnStepPopsOrFaults : Obligations.ReturnStepPopsOrFaults := by
  intro s hs hfetch
  obtain ⟨hpc, hop⟩ := State.fetch_eq_some.mp hfetch
  have hrun : Runs s .ret := runs_ret hs hpc hop
  refine ⟨fun e rest hstack => ?_, fun hstack => ?_⟩
  · exact ⟨_, step_ret_of_cons hrun hstack, rfl, rfl, s.stackStep_ticks rest e, s.stackStep_keeps rest e⟩
  · have hstep := step_of_fault hrun (exec_ret_of_nil (s := s.advance) hstack)
    rw [State.pc0_advance, hop] at hstep
    exact ⟨_, hstep, s.latchFault_taken _ _ _ _⟩

/-! A call and its return (spec/95_test_vectors.md S8). -/

/-- A component that has its old value at the end is kept, whatever wrote it in between. -/
theorem KeepsAllBut.erase {ps qs : List Part} {s t : State} (p : Part) (h : KeepsAllBut ps s t) (hp : p.kept s t)
    (hs : ps ⊆ p :: qs) : KeepsAllBut qs s t := by
  intro q hq
  by_cases hqp : q = p
  · exact hqp ▸ hp
  · exact h q fun hmem => (List.mem_cons.mp (hs hmem)).elim hqp hq

/-- Settles O33: the call pushes `PC + 2` on the old stack and keeps `mem`, so the return at `NNN` pops exactly that. -/
theorem callThenReturnComesBack : Obligations.CallThenReturnComesBack := by
  intro s nnn hrun hroom hnnn hret
  let t := s.stackStep ((s.pc + 2) :: s.stack) (addrOf nnn)
  have htpc : t.pc.toNat = nnn.toNat := addrOf_toNat nnn
  have hword : t.wordAt t.pc.toNat = 0x00EE := by rw [htpc, State.stackStep_wordAt, hret]
  have hrunning : t.halted = false := (s.stackStep_halted _ _).trans hrun.running
  have htret : Runs t .ret := runs_ret hrunning (htpc.trans_le hnnn) hword
  -- Cited, not left to `rfl`: two nested steps are costly to compare by unfolding.
  have hustack := t.stackStep_stack s.stack (s.pc + 2)
  have hkeep := (s.stackStep_keeps _ _).trans (t.stackStep_keeps s.stack (s.pc + 2))
  exact ⟨t, _, step_call_of_room hrun hroom, htpc, step_ret_of_cons htret rfl, t.stackStep_pc _ _, hustack,
    hkeep.erase .stack hustack (by decide)⟩

end Sys2Proof.Machine
end

section
/-! PROOFS. The ALU family (spec/42_alu.md): what the flag computations give as numbers and as conditions, and the obligations
on loads, logic, sums, differences, shifts and the random byte. -/

namespace Sys2Proof.Machine

/-! Results and flags (R100). -/

theorem sum8_toNat (a b : Byte) : (sum8 a b).toNat = (a.toNat + b.toNat) % 256 := BitVec.toNat_ofNat _ 8

theorem carry8_iff (a b : Byte) : carry8 a b = true ↔ 255 < a.toNat + b.toNat := decide_eq_true_iff

theorem diff8_toNat (a b : Byte) : (diff8 a b).toNat = (a.toNat + 256 - b.toNat) % 256 := BitVec.toNat_ofNat _ 8

theorem noBorrow_iff (a b : Byte) : noBorrow a b = true ↔ b.toNat ≤ a.toNat := decide_eq_true_iff

/-- Half a byte fits a byte, so the narrowing loses nothing (R109). -/
theorem shiftRight1_toNat (a : Byte) : (shiftRight1 a).toNat = a.toNat / 2 := by
  have := a.isLt
  exact (BitVec.toNat_ofNat _ 8).trans (Nat.mod_eq_of_lt (by omega))

theorem bitOutRight_iff (a : Byte) : bitOutRight a = true ↔ a.toNat % 2 = 1 := by
  rw [bitOutRight, ← BitVec.testBit_toNat, Nat.testBit_zero, decide_eq_true_iff]

theorem shiftLeft1_toNat (a : Byte) : (shiftLeft1 a).toNat = a.toNat * 2 % 256 := BitVec.toNat_ofNat _ 8

/-- Bit 7 is the most significant bit of a byte: set from 128 on (R111). -/
theorem bitOutLeft_iff (a : Byte) : bitOutLeft a = true ↔ 128 ≤ a.toNat := by
  have hmsb : bitOutLeft a = a.msb := a.msb_eq_getLsbD_last.symm
  rw [hmsb, BitVec.msb_eq_decide, decide_eq_true_iff]

/-! The random byte (R34, R115). -/

/-- A listed sample is the one the step sees. -/
theorem State.input_of_cons {s : State} {sample : Input} {l : List Input} (h : s.inputs = sample :: l) : s.input = sample := by
  simp only [State.input, h]

/-- No bit outside the mask is set. -/
theorem and_and_not_mask (a mask : Byte) : a &&& mask &&& ~~~mask = 0 := by
  rw [BitVec.and_assoc, BitVec.and_not_self]
  exact BitVec.and_zero

/-! The obligations. -/

/-- Settles O23: each of the five bodies is one register write. -/
theorem loadAndLogicResults : Obligations.LoadAndLogicResults := fun s x _ _ =>
  ⟨⟨_, rfl, s.setReg_writes x _⟩, ⟨_, rfl, s.setReg_writes x _⟩, ⟨_, rfl, s.setReg_writes x _⟩,
    ⟨_, rfl, s.setReg_writes x _⟩, ⟨_, rfl, s.setReg_writes x _⟩⟩

/-- Settles O24: the body is one register write, of the narrowed sum. -/
theorem addImmediateWrapsWithoutFlag : Obligations.AddImmediateWrapsWithoutFlag := by
  intro s x nn
  obtain ⟨hreg, hregs, hparts⟩ := s.setReg_writes x (sum8 (s.reg x) nn)
  exact ⟨_, rfl, (congrArg BitVec.toNat hreg).trans (sum8_toNat _ nn), hregs, hparts⟩

/-- Settles O25: the sum, then its carry as the flag. -/
theorem addRegistersReportsCarry : Obligations.AddRegistersReportsCarry := fun s x _ =>
  ⟨_, rfl, s.setRegFlag_writes x (sum8_toNat _ _) (carry8_iff _ _)⟩

/-- Settles O26: both bodies are the difference, then no borrow as the flag, with the operands exchanged. -/
theorem subtractionReportsNoBorrow : Obligations.SubtractionReportsNoBorrow := fun s x _ =>
  ⟨⟨_, rfl, s.setRegFlag_writes x (diff8_toNat _ _) (noBorrow_iff _ _)⟩,
    ⟨_, rfl, s.setRegFlag_writes x (diff8_toNat _ _) (noBorrow_iff _ _)⟩⟩

/-- Settles O27: both bodies are the shifted byte, then the bit shifted out as the flag. -/
theorem shiftsReportTheBitShiftedOut : Obligations.ShiftsReportTheBitShiftedOut := fun s x _ =>
  ⟨⟨_, rfl, s.setRegFlag_writes x (shiftRight1_toNat _) (bitOutRight_iff _)⟩,
    ⟨_, rfl, s.setRegFlag_writes x (shiftLeft1_toNat _) (bitOutLeft_iff _)⟩⟩

/-- Settles O28: the body is one register write of the masked byte, whatever the byte. -/
theorem randomByteIsMasked : Obligations.RandomByteIsMasked := by
  intro s x nn
  refine ⟨_, rfl, s.setReg_writes x (s.input.rnd &&& nn), ?_, fun sample l hlisted => ?_⟩
  · rw [State.reg_setReg_same, and_and_not_mask]
  · rw [State.reg_setReg_same, State.input_of_cons hlisted]

end Sys2Proof.Machine
end

section
/-! PROOFS. The index-and-memory family (spec/43_index_memory.md): what the bodies of FX33 and FX65 answer in range, the values
that go to `I`, and the obligations on `I`, the decimal digits and the register blocks. -/

namespace Sys2Proof.Machine

/-! Stores (R123 to R125). -/

/-- After a store the byte at `a + k` is the `k`-th byte stored (R45). -/
theorem State.byteAt_storeBytes_getElem (s : State) (hs : s.mem.Pairwise (fun c d => c.1 < d.1)) (a : Nat) (bs : List Byte)
    {k : Nat} (hk : k < bs.length) : (s.storeBytes a bs).byteAt (a + k) = bs[k] := by
  rw [s.byteAt_storeBytes hs, if_pos (Nat.le_add_right a k), Nat.add_sub_cancel_left, List.getD_eq_getElem _ _ hk]

theorem State.storeBytes_keepsBytesOutside (s : State) (hs : s.mem.Pairwise (fun c d => c.1 < d.1)) (a : Nat)
    (bs : List Byte) : KeepsBytesOutside a bs.length s (s.storeBytes a bs) :=
  s.byteAt_storeBytes_outside hs a bs

/-- FX33 in its range passes its check and stores the digits at `I` (R123, R124). -/
theorem exec_ldB_eq {s : State} (x : RegIdx) (hlo : writeBase ≤ s.base) (hhi : s.base + 2 < memSize) :
    exec (.ldB x) s = .next (s.storeBytes s.base (bcdDigits (s.reg x))) := by
  have hcheck : checkStore s.base 3 = none := checkStore_eq_none.mpr ⟨.inr hhi, hlo⟩
  simp [exec, execLdB, hcheck]

/-- A number up to the value of a byte fits a byte: no digit is narrowed (R123). -/
theorem ofNat8_toNat_of_le {n : Nat} {a : Byte} (h : n ≤ a.toNat) : (BitVec.ofNat 8 n).toNat = n :=
  (BitVec.toNat_ofNat n 8).trans (Nat.mod_eq_of_lt (h.trans_lt a.isLt))

/-! The load (R126). -/

/-- FX65 in its range passes its check and loads its block from `I` (R124, R126). -/
theorem exec_ldVxMem_eq {s : State} {x : RegIdx} (hhi : s.base + x.val < memSize) :
    exec (.ldVxMem x) s = .next (s.setRegs (s.loadBlock s.base (x.val + 1))) := by
  have hcheck : checkLoad s.base (x.val + 1) = none := checkLoad_eq_none.mpr (.inr hhi)
  simp [exec, execLdVxMem, hcheck]

/-! The values that go to `I` (R121, R122). -/

theorem indexSum_toNat (i : Word) (a : Byte) : (indexSum i a).toNat = (i.toNat + a.toNat) % 65536 := BitVec.toNat_ofNat _ 16

theorem indexCarry_iff (i : Word) (a : Byte) : indexCarry i a = true ↔ 65535 < i.toNat + a.toNat := decide_eq_true_iff

/-- A glyph address is at most 0x054B, so the narrowing to 16 bits loses nothing (R122). -/
theorem glyphAddress_toNat (a : Byte) :
    (BitVec.ofNat 16 (glyphBase + glyphCharSize * a.toNat)).toNat = 0x50 + 5 * a.toNat := by
  have := a.isLt
  exact (BitVec.toNat_ofNat _ 16).trans (Nat.mod_eq_of_lt (by simp only [glyphBase, glyphCharSize]; omega))

/-! The obligations. -/

/-- Settles O43: the body in range is one store of the block, whose length is `X + 1`. -/
theorem registerBlockIsStored : Obligations.RegisterBlockIsStored := by
  intro s x ⟨hsorted, _⟩ hlo hhi
  refine ⟨_, exec_ldMemVx_eq hlo (Nat.lt_succ_of_le hhi), fun k hk => s.byteAt_storeBytes_block hsorted _ hk, ?_,
    s.storeBytes_keeps _ _⟩
  have hout := s.storeBytes_keepsBytesOutside hsorted s.base (s.block x)
  rwa [s.length_block] at hout

/-- Settles O44: the body in range replaces the registers up to `X` by the bytes from `I` on. -/
theorem registerBlockIsLoaded : Obligations.RegisterBlockIsLoaded := by
  intro s x hhi
  have hreg := s.reg_setRegs_loadBlock s.base (x.val + 1)
  refine ⟨_, exec_ldVxMem_eq (Nat.lt_succ_of_le hhi), fun k hk => ?_, fun k hk => ?_, s.setRegs_keeps _⟩
  · exact (hreg k).trans (if_pos (Nat.lt_succ_of_le hk))
  · exact (hreg k).trans (if_neg (Nat.not_lt.mpr hk))

/-- Settles O45: the store keeps `I`, so the load reads back the bytes stored, whatever the registers are in between. -/
theorem storeThenLoadRoundTrips : Obligations.StoreThenLoadRoundTrips := by
  intro s x v hwf hlo hhi
  obtain ⟨t, hstore, hbytes, -, hkeep⟩ := registerBlockIsStored s x hwf hlo hhi
  have hi : t.i = s.i := hkeep .index (by decide)
  obtain ⟨u, hload, hloaded, habove, -⟩ := registerBlockIsLoaded { t with v := v } x (hi ▸ hhi)
  refine ⟨t, u, hstore, hload, fun k hk => ?_, habove⟩
  calc u.reg k = t.byteAt (t.i.toNat + k.val) := hloaded k hk
    _ = t.byteAt (s.i.toNat + k.val) := by rw [hi]
    _ = s.reg k := hbytes k hk

/-- Settles O39: the body only sets `I`, to the zero-extended address. -/
theorem loadIndexAddress : Obligations.LoadIndexAddress := fun s nnn => ⟨_, rfl, addrOf_toNat nnn, s.setI_keeps _⟩

/-- Settles O40: the sum of the values before, then its carry as the flag. -/
theorem addToIndexReportsCarry : Obligations.AddToIndexReportsCarry := by
  intro s x
  have hflag := State.reg_setFlag_vf (s.setI (indexSum s.i (s.reg x))) (indexCarry s.i (s.reg x))
  refine ⟨_, rfl, indexSum_toNat _ _, fun hc => ?_, fun hc => ?_, State.setFlag_keepsRegs _ _,
    (s.setI_keeps _).append (State.setFlag_keeps _ _)⟩
  · exact hflag.trans (if_pos ((indexCarry_iff _ _).mpr hc))
  · exact hflag.trans (if_neg fun h => hc ((indexCarry_iff _ _).mp h))

/-- Settles O41: the body only sets `I`, to a number that its 16 bits hold. -/
theorem glyphAddressUsesTheWholeByte : Obligations.GlyphAddressUsesTheWholeByte := fun s x =>
  ⟨_, rfl, glyphAddress_toNat (s.reg x), s.setI_keeps _⟩

/-- Settles O42: the body in range is one store of the three digits, each of which fits a byte. -/
theorem decimalDigitsAreStored : Obligations.DecimalDigitsAreStored := by
  intro s x ⟨hsorted, _⟩ hlo hhi
  have hdigit {k : Nat} (hk : k < 3) :
      ((s.storeBytes s.base (bcdDigits (s.reg x))).byteAt (s.base + k)).toNat = (bcdDigits (s.reg x))[k].toNat :=
    congrArg BitVec.toNat (s.byteAt_storeBytes_getElem hsorted s.base _ hk)
  refine ⟨_, exec_ldB_eq x hlo (Nat.lt_succ_of_le hhi), ?_, ?_, ?_,
    s.storeBytes_keepsBytesOutside hsorted s.base (bcdDigits (s.reg x)), s.storeBytes_keeps _ _⟩
  · exact (hdigit (k := 0) (by decide)).trans (ofNat8_toNat_of_le (Nat.div_le_self _ _))
  · exact (hdigit (k := 1) (by decide)).trans (ofNat8_toNat_of_le ((Nat.mod_le _ _).trans (Nat.div_le_self _ _)))
  · exact (hdigit (k := 2) (by decide)).trans (ofNat8_toNat_of_le (Nat.mod_le _ _))

end Sys2Proof.Machine
end

section
/-! PROOFS. The draw family (spec/44_draw.md): what DXYN answers in range, in terms of the sprite bits of the claims, and the
obligations on clearing, drawing and drawing twice. -/

namespace Sys2Proof.Machine

/-- The display and the collision that DXYN's rows end with (R131). -/
def State.drawSprite (s : State) (x y : RegIdx) (n : Nat) : Canvas :=
  Canvas.drawRows { grid := s.disp, hit := false } (originX (s.reg x)) (originY (s.reg y)) (s.spriteRows s.base n)

/-- DXYN in its range passes its check, replaces the display and then writes the collision to `VF` (R131, R136). -/
theorem exec_drw_eq {s : State} (x y : RegIdx) {n : Nat} (h : n = 0 ∨ s.i.toNat + n - 1 ≤ 0xFFF) :
    exec (.drw x y n) s = .next ((s.setDisp (s.drawSprite x y n).grid).setFlag (s.drawSprite x y n).hit) := by
  have hrange : n = 0 ∨ s.base + n ≤ memSize := by simp only [State.base, memSize]; omega
  exact execDrw_eq s x y hrange

/-- A cell of the screen is XORed with the sprite bit that falls on it (R134, R135). -/
theorem State.drawSprite_cell (s : State) (x y : RegIdx) (n : Nat) {p q : Nat} (hp : p < 64) (hq : q < 32) :
    (s.drawSprite x y n).grid.cell p q = (s.disp.cell p q ^^ spriteBit s x y n p q) := by
  obtain ⟨hcell, -⟩ := Canvas.drawRows_spec { grid := s.disp, hit := false } (originX (s.reg x)) (originY (s.reg y))
    (s.spriteRows s.base n)
  simpa [State.drawSprite, hp, hq, spriteBit_eq] using hcell p q

/-- The drawing collides exactly when a sprite bit falls on a cell that was on (R135). -/
theorem State.drawSprite_hit_iff (s : State) (x y : RegIdx) (n : Nat) :
    (s.drawSprite x y n).hit = true ↔
      ∃ p q, p < 64 ∧ q < 32 ∧ spriteBit s x y n p q = true ∧ s.disp.cell p q = true := by
  obtain ⟨-, hhit⟩ := Canvas.drawRows_spec { grid := s.disp, hit := false } (originX (s.reg x)) (originY (s.reg y))
    (s.spriteRows s.base n)
  simpa [State.drawSprite, spriteBit_eq] using hhit

/-- The sprite bits depend on the coordinates, `I` and `mem` only (R132, R133). -/
theorem spriteBit_congr {s t : State} {x y : RegIdx} (hx : t.reg x = s.reg x) (hy : t.reg y = s.reg y) (hi : t.i = s.i)
    (hmem : ∀ a, t.byteAt a = s.byteAt a) (n p q : Nat) : spriteBit t x y n p q = spriteBit s x y n p q := by
  simp only [spriteBit, hx, hy, hi, hmem]

/-! The obligations. -/

/-- Settles O48: the body in range is the drawing, then its collision as the flag. -/
theorem drawXorsTheClippedSprite : Obligations.DrawXorsTheClippedSprite := by
  intro s x y n hn
  have hhit := s.drawSprite_hit_iff x y n
  have hflag := State.reg_setFlag_vf (s.setDisp (s.drawSprite x y n).grid) (s.drawSprite x y n).hit
  refine ⟨_, exec_drw_eq x y hn, fun p q hp hq => s.drawSprite_cell x y n hp hq, fun hc => ?_, fun hc => ?_,
    State.setFlag_keepsRegs _ _, (s.setDisp_keeps _).append (State.setFlag_keeps _ _)⟩
  · exact hflag.trans (if_pos (hhit.mpr hc))
  · exact hflag.trans (if_neg fun h => hc (hhit.mp h))

/-- Settles O49: the first drawing keeps the coordinates, `I` and `mem`, so the second XORs each cell with the same bit. -/
theorem drawTwiceRestoresTheDisplay : Obligations.DrawTwiceRestoresTheDisplay := by
  intro s x y n hn hx hy
  obtain ⟨t, hdraw, hcell, -, -, hregs, hkeep⟩ := drawXorsTheClippedSprite s x y n hn
  have hi : t.i = s.i := hkeep .index (by decide)
  have hmem : ∀ a, t.byteAt a = s.byteAt a := hkeep .bytes (by decide)
  have hbit := spriteBit_congr (hregs x (by simpa using hx)) (hregs y (by simpa using hy)) hi hmem n
  obtain ⟨u, hredraw, hcell', -⟩ := drawXorsTheClippedSprite t x y n (hi ▸ hn)
  refine ⟨t, u, hdraw, hredraw, Grid.ext_cell fun p q hp hq => ?_⟩
  calc u.disp.cell p q = (t.disp.cell p q ^^ spriteBit t x y n p q) := hcell' p q hp hq
    _ = ((s.disp.cell p q ^^ spriteBit s x y n p q) ^^ spriteBit s x y n p q) := by rw [hcell p q hp hq, hbit]
    _ = s.disp.cell p q := by rw [Bool.xor_assoc, Bool.xor_self, Bool.xor_false]

/-- Settles O47: the body only replaces the display, by the blank one. -/
theorem clearScreenTurnsEveryCellOff : Obligations.ClearScreenTurnsEveryCellOff := fun s =>
  ⟨_, rfl, fun x y _ _ => Grid.cell_blank x y, s.setDisp_keeps _⟩

end Sys2Proof.Machine
end

section
/-! PROOFS. The keypad-and-timers family (spec/45_keypad_timers.md): what the bodies of EX9E, EXA1 and FX0A answer by the sampled
keys, the steps of FX0A, and the obligations on key skips, the key wait and timer access. -/

namespace Sys2Proof.Machine

/-! Key skips (R140, R141, R146). -/

theorem checkKey_of_key {a : Byte} {k : Fin 16} (h : a.toNat = k.val) : checkKey a = none :=
  checkKey_eq_none.mpr (by omega)

/-- EX9E with a key number in range passes its check and skips by that key's flag (R140, R146). -/
theorem exec_skp_of_key {s : State} {x : RegIdx} {k : Fin 16} (h : (s.reg x).toNat = k.val) :
    exec (.skp x) s = .next (s.skipIf s.input.key[k.val]) := by
  rw [exec, execSkp, checkKey_of_key h, State.guarded_none, h, State.keyDown_eq]

/-- EXA1 with a key number in range passes its check and skips by the negation of that key's flag (R141, R146). -/
theorem exec_sknp_of_key {s : State} {x : RegIdx} {k : Fin 16} (h : (s.reg x).toNat = k.val) :
    exec (.sknp x) s = .next (s.skipIf (!s.input.key[k.val])) := by
  rw [exec, execSknp, checkKey_of_key h, State.guarded_none, h, State.keyDown_eq]

/-- Settles O36: each body in range is `skipIf` on the key's flag or its negation. -/
theorem keySkipsTestTheSample : Obligations.KeySkipsTestTheSample := fun s _ _ hk =>
  ⟨⟨_, exec_skp_of_key hk, s.skipIf_skips Iff.rfl⟩,
    ⟨_, exec_sknp_of_key hk, s.skipIf_skips (.of_eq (Bool.not_eq_true' _))⟩⟩

/-! The key wait (R142). -/

theorem State.anyKey_eq_false {s : State} (h : ∀ k : Fin 16, s.input.key[k.val] = false) : s.anyKey = false :=
  Bool.eq_false_iff.mpr fun hany =>
    have ⟨k, hk⟩ := s.anyKey_iff.mp hany
    Bool.false_ne_true ((h k).symm.trans hk)

theorem exec_ldVxK_of_noKey {s : State} (h : ∀ k : Fin 16, s.input.key[k.val] = false) (x : RegIdx) :
    exec (.ldVxK x) s = .next (s.setPc s.pc0) := by
  simp [exec, execLdVxK, State.anyKey_eq_false h, State.pc0]

theorem exec_ldVxK_of_key {s : State} (h : ∃ k : Fin 16, s.input.key[k.val] = true) (x : RegIdx) :
    exec (.ldVxK x) s = .next s := by
  rw [exec, execLdVxK, if_pos (s.anyKey_iff.mpr h)]
  rfl

/-- A waiting step undoes its advance: all that is left of it is the end of the step. -/
theorem step_ldVxK_of_noKey {s : State} {x : RegIdx} (hrun : Runs s (.ldVxK x))
    (h : ∀ k : Fin 16, s.input.key[k.val] = false) : step s = .next s.endStep := by
  have hexec := exec_ldVxK_of_noKey (s := s.advance) h x
  rw [State.pc0_advance] at hexec
  exact step_of_exec hrun hexec hrun.running

theorem step_ldVxK_of_key {s : State} {x : RegIdx} (hrun : Runs s (.ldVxK x))
    (h : ∃ k : Fin 16, s.input.key[k.val] = true) : step s = .next s.advance.endStep :=
  step_of_exec hrun (exec_ldVxK_of_key (s := s.advance) h x) hrun.running

/-- Settles O37: with no key down the body undoes the advance, with a key down it changes nothing. -/
theorem keyWaitRepeatsUntilAKeyIsDown : Obligations.KeyWaitRepeatsUntilAKeyIsDown := by
  refine fun s x => ⟨fun hup => ⟨?_, fun hrun => ?_⟩, fun hdown => ⟨?_, fun hrun => ?_⟩⟩
  · exact ⟨_, exec_ldVxK_of_noKey hup x, rfl, s.setPc_keeps _⟩
  · exact ⟨_, step_ldVxK_of_noKey hrun hup, s.endStep_ticks, s.endStep_keeps⟩
  · exact ⟨_, exec_ldVxK_of_key hdown x, .refl [] s⟩
  · exact ⟨_, step_ldVxK_of_key hrun hdown, rfl, s.advance.endStep_ticks, s.advance_keeps.append s.advance.endStep_keeps⟩

/-! Timer access (R143 to R145, R147). -/

/-- A body and then the end of its step, from before the advance: nothing is written but `PC`, what the body writes, the timers
and the model's own inputs (R82, R86). -/
theorem KeepsAllBut.endStep_of_advance {ps : List Part} {s u : State} (h : KeepsAllBut ps s.advance u) :
    KeepsAllBut ([.pc] ++ ps ++ [.delay, .sound, .input]) s u.endStep :=
  (s.advance_keeps.append h).append u.endStep_keeps

/-- Settles O38: each body is one write of a register or a timer, and the tick of its step is that of the timers it leaves. -/
theorem timerTransfersAndTheTick : Obligations.TimerTransfersAndTheTick := by
  intro s x
  refine ⟨⟨_, rfl, s.setReg_writes x s.dt⟩, ⟨_, rfl, rfl, s.setDt_keeps _⟩, ⟨_, rfl, rfl, s.setSt_keeps _⟩,
    fun hrun => ?_, fun hrun => ?_, fun hrun => ?_⟩
  · exact ⟨_, step_of_exec hrun rfl hrun.running, s.advance.reg_setReg_same x s.dt, rfl, State.endStep_ticks _⟩
  · have hkeep := (s.advance.setDt_keeps (s.reg x)).endStep_of_advance
    exact ⟨_, step_of_exec hrun rfl hrun.running, tick_toNat _, tick_toNat _, hkeep.mono (by decide)⟩
  · have hkeep := (s.advance.setSt_keeps (s.reg x)).endStep_of_advance
    exact ⟨_, step_of_exec hrun rfl hrun.running, tick_toNat _, tick_toNat _, hkeep.mono (by decide)⟩

end Sys2Proof.Machine
end

section
/-! PROOFS. The exceptions family (spec/60_exceptions.md): the fault table against the bodies, and what the host reads. -/

namespace Sys2Proof.Machine

/-! Faults (R151 to R153). -/

/-- Settles O14: where R151's table names a fault the body is fault entry with it, and elsewhere it keeps the fault record. -/
theorem bodyFaultsExactlyAsTabulated : Obligations.BodyFaultsExactlyAsTabulated := by
  intro i s hs
  obtain ⟨t, ht⟩ := exec_next i s
  refine ⟨t, ht, ?_⟩
  rcases exec_faultOf_cases ht with ⟨c, n, hfault, rfl⟩ | ⟨hnone, hrec⟩
  · refine ⟨fun cause info h => ?_, fun h => ?_⟩
    · cases hfault.symm.trans h
      exact s.raiseFault_taken c n
    · cases hfault.symm.trans h
  · refine ⟨fun cause info h => ?_, fun _ => ?_⟩
    · cases hnone.symm.trans h
    · exact (congrArg FaultRecord.fault hrec).trans hs

/-! What the host reads (R164, R166). -/

@[simp] theorem State.length_dispFlat (s : State) : s.dispFlat.length = 2048 := by simp [State.dispFlat]

theorem State.getElem?_dispFlat (s : State) {k : Nat} (hk : k < 2048) :
    s.dispFlat[k]? = some (s.disp.cell (k % 64) (k / 64)) := by
  simp [State.dispFlat, hk]

theorem State.sndActive_iff (s : State) : s.sndActive = true ↔ s.st.toNat ≠ 0 := by
  simp [State.sndActive, BitVec.toNat_eq]

/-- Settles O52: entry `64 y + x` is the cell at the column and the row that its index divides into, `x` and `y`. -/
theorem hostOutputs : Obligations.HostOutputs := by
  refine fun s => ⟨s.length_dispFlat, fun x y hx hy => ?_, s.sndActive_iff⟩
  have hcolumn : (y * 64 + x) % 64 = x := by omega
  have hrow : (y * 64 + x) / 64 = y := by omega
  rw [s.getElem?_dispFlat (by omega), hcolumn, hrow]

end Sys2Proof.Machine
end

section
/-! PROOFS. The reset-and-hazards family (spec/70_reset_and_hazards.md): the load of a program image, and a run at a 1NNN that
jumps to itself. -/

namespace Sys2Proof.Machine

/-! The load of the program image (R159, R174). -/

theorem State.loadImage_of_le (s : State) {img : List Byte} (h : img.length ≤ maxProgramBytes) :
    s.loadImage img = some (s.storeBytes programBase img) := if_pos h

theorem State.loadImage_of_lt (s : State) {img : List Byte} (h : maxProgramBytes < img.length) : s.loadImage img = none :=
  if_neg h.not_ge

/-- Settles O51: the load of an image that fits is one store at 0x200. -/
theorem programImageIsLoadedOrRefused : Obligations.ProgramImageIsLoadedOrRefused := by
  intro s img ⟨hsorted, _⟩
  refine ⟨fun hfits => ?_, s.loadImage_of_lt⟩
  exact ⟨_, s.loadImage_of_le hfits, fun k hk => s.byteAt_storeBytes_getElem hsorted _ img hk,
    s.storeBytes_keepsBytesOutside hsorted _ img, s.storeBytes_keeps _ img⟩

/-! The terminal self-jump (R177, D23). -/

/-- The opcode of 1NNN is 0x1000 with the target's bits in it (R62, R64). -/
theorem encode_jp (nnn : Addr12) : encode (.jp nnn) = 0x1000#16 ||| addrOf nnn := by
  rw [encode, formatNNN, BitVec.append_def, BitVec.setWidth'_eq]
  rfl

/-- An address that can be fetched from has no bit above its low 12 (R81). -/
theorem addrOf_setWidth_of_le {w : Word} (h : w.toNat ≤ 0xFFE) : addrOf (w.setWidth 12) = w := by
  apply BitVec.eq_of_toNat_eq
  rw [addrOf_toNat, BitVec.toNat_setWidth, Nat.mod_eq_of_lt (by omega)]

/-- The word at a terminal self-jump runs as the 1NNN whose target is `PC`. -/
theorem runs_jp_of_atTerminalJump {s : State} (hs : s.halted = false) (h : s.atTerminalJump) :
    Runs s (.jp (s.pc.setWidth 12)) := by
  obtain ⟨hpc, hword⟩ := h
  have hop : s.wordAt s.pc.toNat = encode (.jp (s.pc.setWidth 12)) := by rw [hword, encode_jp, addrOf_setWidth_of_le hpc]
  exact runs_iff.mpr ⟨hs, hpc, hop ▸ decodeWord_encode s.params.alias59 _ rfl⟩

/-- The jump undoes the advance: all that is left of the step is its end. -/
theorem step_of_atTerminalJump {s : State} (hs : s.halted = false) (h : s.atTerminalJump) : step s = .next s.endStep := by
  have ⟨hpc, _⟩ := h
  have hexec : exec (.jp (s.pc.setWidth 12)) s.advance = .next s := by
    show Host.Outcome.next (s.advance.setPc (addrOf (s.pc.setWidth 12))) = .next s
    rw [addrOf_setWidth_of_le hpc]
    rfl
  exact step_of_exec (runs_jp_of_atTerminalJump hs h) hexec hs

/-- Settles O35, by induction on the number of steps: each is the end of a step, which keeps the jump in place. -/
theorem terminalSelfJumpOnlyRunsTheTimers : Obligations.TerminalSelfJumpOnlyRunsTheTimers := by
  intro k
  induction k with
  | zero => exact fun s _ _ => ⟨s, rfl, rfl, rfl, .refl _ s⟩
  | succ k ih =>
    intro s hs hjump
    obtain ⟨t, hrun, hdt, hst, hkeep⟩ := ih s.endStep hs hjump
    obtain ⟨hdelay, hsound⟩ := s.endStep_ticks
    exact ⟨t, (run_succ (step_of_atTerminalJump hs hjump) k).trans hrun, by omega, by omega, s.endStep_keeps.trans hkeep⟩

end Sys2Proof.Machine
end
